-- ==== Sys2Proof/Word.lean ====
section
/-! DEFINITION. The word types of the xHCI ring engine: bytes, guest physical addresses, instance identifiers. -/
namespace Sys2Proof

/-- One byte of guest memory or of a request (spec/20_memory.md R67). -/
abbrev Byte := BitVec 8

/-- A guest physical address: `ADDR_BITS = 64` bits, all arithmetic unsigned modulo 2^64
(spec/20_memory.md R69, spec/00_scope.md section 4). -/
abbrev Addr := BitVec 64

/-- The identifier under which the dispatch layer names an instance (spec/10_state.md R20). -/
abbrev InstId := Nat

end Sys2Proof
end

