-- ==== Sys2Proof/Config.lean ====
section
/-! DEFINITION. The implementation parameters of spec/00_scope.md section 4 and the free values. -/
namespace Sys2Proof

/-- The parameters the spec leaves to the integrator (spec/00_scope.md R8). They stand in State as one field
that no step writes, so that every statement about all states quantifies over them. `none` means "no bound". -/
structure Params where
  /-- `MAX_RING_TRBS` (spec/41_consumer_ring.md R182). -/
  maxRingTrbs : Nat
  /-- `ERST_MAX` (spec/42_event_ring.md R232). -/
  erstMax : Option Nat
  /-- `N_CONSUMER` (spec/10_state.md R20). -/
  nConsumer : Option Nat
  /-- `N_EVENT` (spec/10_state.md R20). -/
  nEvent : Option Nat
  deriving DecidableEq, Repr

namespace Config

/-- The defaults of spec/00_scope.md section 4: 2^30 / 16 records, the three OPEN bounds not given. -/
def params : Params := ⟨67108864, none, none, none⟩

/-- `TRB_SIZE` and `ERST_ENTRY_SIZE` (spec/00_scope.md section 4). -/
abbrev recordBytes : Nat := 16

/-- `SEG_MIN` (spec/10_state.md R28). -/
abbrev segMin : Nat := 16

/-- `SEG_MAX` (spec/10_state.md R28). -/
abbrev segMax : Nat := 4096

/-- `CYCLE_BIT` (spec/30_encoding.md R102). -/
abbrev cycleBit : Nat := 0

/-- `CHAIN_BIT` (spec/30_encoding.md R103; PRESUMED by the spec from general knowledge, log entry 2). -/
abbrev chainBit : Nat := 4

/-- `TOGGLE_BIT` (spec/30_encoding.md R104; PRESUMED by the spec from general knowledge, log entry 2). -/
abbrev toggleBit : Nat := 1

/-- `TYPE_CODE[Link]` (spec/30_encoding.md R108; PRESUMED by the spec, log entry 2). -/
abbrev typeLink : BitVec 6 := 6#6

/-- `CC_SUCCESS` (spec/43_event_builders.md R287; PRESUMED by the spec, log entry 2). -/
abbrev ccSuccess : BitVec 8 := 1#8

/-- `CC_EVENT_RING_FULL` (spec/42_event_ring.md R242; PRESUMED by the spec, log entry 2). -/
abbrev ccEventRingFull : BitVec 8 := 21#8

/-- FREE VALUE: what a byte of guest memory holds after a write that the memory service failed
(spec/60_exceptions.md R317, spec/93_implementation_defined.md U19: "any value"; log entry 5).
No body: nothing can be proved of its value. -/
opaque failedWriteByte : Nat → Byte

end Config
end Sys2Proof
end

