-- ==== Sys2Proof/Syntax.lean ====
section
/-! DEFINITION. The wire record, the typed views of it, and `Instr`: one constructor per row of spec/opcode_table.json.

The block decodes two things (spec/30_encoding.md): TRBs, "the instructions of the rings", and operations requested at
the operation port. A TRB constructor stands for a record of that type met by the consumer-ring walker; an operation
constructor stands for a request. -/
namespace Sys2Proof

/-- A TRB value (spec/00_scope.md R11, spec/30_encoding.md R100). -/
structure Trb where
  parameter : BitVec 64
  status : BitVec 32
  control : BitVec 32
  deriving DecidableEq, Repr

/-- `ZERO_TRB` (spec/00_scope.md R11). -/
def Trb.zero : Trb := ⟨0, 0, 0⟩

/-- The typed view of a transfer-class record (spec/30_encoding.md R103, R107): `control` without its type field. -/
structure TransferTrb where
  parameter : BitVec 64
  status : BitVec 32
  /-- `control[31:16]`, not used by the block. -/
  high : BitVec 16
  /-- `control[9:5]`, not used by the block. -/
  mid : BitVec 5
  /-- `control[4]`. -/
  chain : Bool
  /-- `control[3:1]`, not used by the block. -/
  low : BitVec 3
  /-- `control[0]`. -/
  cycle : Bool
  deriving DecidableEq, Repr

/-- The typed view of a Link record (spec/30_encoding.md R104, R107, spec/40_trb_types.md R146). -/
structure LinkTrb where
  parameter : BitVec 64
  status : BitVec 32
  /-- `control[31:16]`, not used by the block. -/
  high : BitVec 16
  /-- `control[9:5]`, not used by the block. -/
  mid : BitVec 5
  /-- `control[4]`, defined but read by no rule (spec/40_trb_types.md R146). -/
  chain : Bool
  /-- `control[3:2]`, not used by the block. -/
  low : BitVec 2
  /-- `control[1]`. -/
  toggleCycle : Bool
  /-- `control[0]`. -/
  cycle : Bool
  deriving DecidableEq, Repr

/-- The typed view of every other record: only `cycle` and the type are read (spec/40_trb_types.md R147 to R157). -/
structure PlainTrb where
  parameter : BitVec 64
  status : BitVec 32
  /-- `control[31:16]`, not used by the block. -/
  high : BitVec 16
  /-- `control[9:1]`, not used by the block (bit 4 is no chain bit here, spec/30_encoding.md R103). -/
  mid : BitVec 9
  /-- `control[0]`. -/
  cycle : Bool
  deriving DecidableEq, Repr

/-- The work-item assembly policy of a Consumer Ring (spec/10_state.md R22). -/
inductive RingKind where
  | command
  | transfer
  deriving DecidableEq, Repr

/-- The closed set of decoded instructions. -/
inductive Instr where
  /-- `Reserved0`, `trb_type` 0 (R156). -/
  | reserved0 (t : PlainTrb)
  /-- `Normal`, `trb_type` 1 (R141). -/
  | normal (t : TransferTrb)
  /-- `SetupStage`, `trb_type` 2 (R142). -/
  | setupStage (t : TransferTrb)
  /-- `DataStage`, `trb_type` 3 (R143). -/
  | dataStage (t : TransferTrb)
  /-- `StatusStage`, `trb_type` 4 (R144). -/
  | statusStage (t : TransferTrb)
  /-- `Isoch`, `trb_type` 5 (R145). -/
  | isoch (t : TransferTrb)
  /-- `Link`, `trb_type` 6 (R146). -/
  | link (t : LinkTrb)
  /-- `EventData`, `trb_type` 7 (R147). -/
  | eventData (t : PlainTrb)
  /-- `NoOp`, `trb_type` 8 (R156). -/
  | noOp (t : PlainTrb)
  /-- `EnableSlotCmd`, `trb_type` 9 (R148). -/
  | enableSlotCmd (t : PlainTrb)
  /-- `DisableSlotCmd`, `trb_type` 10 (R155). -/
  | disableSlotCmd (t : PlainTrb)
  /-- `AddressDeviceCmd`, `trb_type` 11 (R155). -/
  | addressDeviceCmd (t : PlainTrb)
  /-- `ConfigureEndpointCmd`, `trb_type` 12 (R149). -/
  | configureEndpointCmd (t : PlainTrb)
  /-- `EvaluateContextCmd`, `trb_type` 13 (R155). -/
  | evaluateContextCmd (t : PlainTrb)
  /-- `ResetEndpointCmd`, `trb_type` 14 (R155). -/
  | resetEndpointCmd (t : PlainTrb)
  /-- `StopEndpointCmd`, `trb_type` 15 (R155). -/
  | stopEndpointCmd (t : PlainTrb)
  /-- `SetTrDequeuePointerCmd`, `trb_type` 16 (R155). -/
  | setTrDequeuePointerCmd (t : PlainTrb)
  /-- `ResetDeviceCmd`, `trb_type` 17 (R155). -/
  | resetDeviceCmd (t : PlainTrb)
  /-- `ForceEventCmd`, `trb_type` 18 (R155). -/
  | forceEventCmd (t : PlainTrb)
  /-- `NegotiateBandwidthCmd`, `trb_type` 19 (R155). -/
  | negotiateBandwidthCmd (t : PlainTrb)
  /-- `SetLatencyToleranceValueCmd`, `trb_type` 20 (R155). -/
  | setLatencyToleranceValueCmd (t : PlainTrb)
  /-- `GetPortBandwidthCmd`, `trb_type` 21 (R155). -/
  | getPortBandwidthCmd (t : PlainTrb)
  /-- `ForceHeaderCmd`, `trb_type` 22 (R155). -/
  | forceHeaderCmd (t : PlainTrb)
  /-- `NoOpCmd`, `trb_type` 23 (R155). -/
  | noOpCmd (t : PlainTrb)
  /-- `GetExtendedPropertyCmd`, `trb_type` 24 (R155). -/
  | getExtendedPropertyCmd (t : PlainTrb)
  /-- `SetExtendedPropertyCmd`, `trb_type` 25 (R155). -/
  | setExtendedPropertyCmd (t : PlainTrb)
  /-- `Reserved26`, `trb_type` 26 (R156). -/
  | reserved26 (t : PlainTrb)
  /-- `Reserved27`, `trb_type` 27 (R156). -/
  | reserved27 (t : PlainTrb)
  /-- `Reserved28`, `trb_type` 28 (R156). -/
  | reserved28 (t : PlainTrb)
  /-- `Reserved29`, `trb_type` 29 (R156). -/
  | reserved29 (t : PlainTrb)
  /-- `Reserved30`, `trb_type` 30 (R156). -/
  | reserved30 (t : PlainTrb)
  /-- `Reserved31`, `trb_type` 31 (R156). -/
  | reserved31 (t : PlainTrb)
  /-- `TransferEvent`, `trb_type` 32 (R150). -/
  | transferEvent (t : PlainTrb)
  /-- `CommandCompletionEvent`, `trb_type` 33 (R151). -/
  | commandCompletionEvent (t : PlainTrb)
  /-- `PortStatusChangeEvent`, `trb_type` 34 (R152). -/
  | portStatusChangeEvent (t : PlainTrb)
  /-- `BandwidthRequestEvent`, `trb_type` 35 (R156). -/
  | bandwidthRequestEvent (t : PlainTrb)
  /-- `DoorbellEvent`, `trb_type` 36 (R156). -/
  | doorbellEvent (t : PlainTrb)
  /-- `HostControllerEvent`, `trb_type` 37 (R153). -/
  | hostControllerEvent (t : PlainTrb)
  /-- `DeviceNotificationEvent`, `trb_type` 38 (R154). -/
  | deviceNotificationEvent (t : PlainTrb)
  /-- `MfIndexWrapEvent`, `trb_type` 39 (R157). -/
  | mfIndexWrapEvent (t : PlainTrb)
  /-- `Reserved40`, `trb_type` 40 (R156). -/
  | reserved40 (t : PlainTrb)
  /-- `Reserved41`, `trb_type` 41 (R156). -/
  | reserved41 (t : PlainTrb)
  /-- `Reserved42`, `trb_type` 42 (R156). -/
  | reserved42 (t : PlainTrb)
  /-- `Reserved43`, `trb_type` 43 (R156). -/
  | reserved43 (t : PlainTrb)
  /-- `Reserved44`, `trb_type` 44 (R156). -/
  | reserved44 (t : PlainTrb)
  /-- `Reserved45`, `trb_type` 45 (R156). -/
  | reserved45 (t : PlainTrb)
  /-- `Reserved46`, `trb_type` 46 (R156). -/
  | reserved46 (t : PlainTrb)
  /-- `Reserved47`, `trb_type` 47 (R156). -/
  | reserved47 (t : PlainTrb)
  /-- `Reserved48`, `trb_type` 48 (R156). -/
  | reserved48 (t : PlainTrb)
  /-- `Reserved49`, `trb_type` 49 (R156). -/
  | reserved49 (t : PlainTrb)
  /-- `Reserved50`, `trb_type` 50 (R156). -/
  | reserved50 (t : PlainTrb)
  /-- `Reserved51`, `trb_type` 51 (R156). -/
  | reserved51 (t : PlainTrb)
  /-- `Reserved52`, `trb_type` 52 (R156). -/
  | reserved52 (t : PlainTrb)
  /-- `Reserved53`, `trb_type` 53 (R156). -/
  | reserved53 (t : PlainTrb)
  /-- `Reserved54`, `trb_type` 54 (R156). -/
  | reserved54 (t : PlainTrb)
  /-- `Reserved55`, `trb_type` 55 (R156). -/
  | reserved55 (t : PlainTrb)
  /-- `Reserved56`, `trb_type` 56 (R156). -/
  | reserved56 (t : PlainTrb)
  /-- `Reserved57`, `trb_type` 57 (R156). -/
  | reserved57 (t : PlainTrb)
  /-- `Reserved58`, `trb_type` 58 (R156). -/
  | reserved58 (t : PlainTrb)
  /-- `Reserved59`, `trb_type` 59 (R156). -/
  | reserved59 (t : PlainTrb)
  /-- `Reserved60`, `trb_type` 60 (R156). -/
  | reserved60 (t : PlainTrb)
  /-- `Reserved61`, `trb_type` 61 (R156). -/
  | reserved61 (t : PlainTrb)
  /-- `Reserved62`, `trb_type` 62 (R156). -/
  | reserved62 (t : PlainTrb)
  /-- `Reserved63`, `trb_type` 63 (R156). -/
  | reserved63 (t : PlainTrb)
  /-- `cr_create`, operation code 0x01 (R181). -/
  | crCreate (id : InstId) (kind : RingKind) (base : Addr)
  /-- `cr_update_from_guest`, operation code 0x02 (R183). -/
  | crUpdateFromGuest (id : InstId)
  /-- `cr_reset`, operation code 0x03 (R186). -/
  | crReset (id : InstId) (pointer : Addr)
  /-- `cr_dequeue_trb`, operation code 0x04 (R189). -/
  | crDequeueTrb (id : InstId)
  /-- `cr_dequeue_work_item`, operation code 0x05 (R193). -/
  | crDequeueWorkItem (id : InstId)
  /-- `er_create`, operation code 0x10 (R231). -/
  | erCreate (id : InstId) (erstba : Addr) (erstsz : Nat) (erdp : Addr)
  /-- `er_is_full`, operation code 0x11 (R233). -/
  | erIsFull (id : InstId)
  /-- `er_enqueue`, operation code 0x12 (R238). -/
  | erEnqueue (id : InstId) (event : Trb)
  /-- `er_update_dequeue_pointer`, operation code 0x13 (R243). -/
  | erUpdateDequeuePointer (id : InstId) (addr : Addr)
  /-- `er_update_segment_table`, operation code 0x14 (R244). -/
  | erUpdateSegmentTable (id : InstId) (erstba : Addr) (erstsz : Nat)
  /-- `ev_transfer`, operation code 0x20 (R281). -/
  | evTransfer (trbPointer : BitVec 64) (length : BitVec 64) (slot : BitVec 64) (endpoint : BitVec 64) (cc : BitVec 64)
  /-- `ev_command_completion`, operation code 0x21 (R282). -/
  | evCommandCompletion (cc : BitVec 64) (slot : BitVec 64) (commandAddress : BitVec 64)
  /-- `ev_port_status_change`, operation code 0x22 (R283). -/
  | evPortStatusChange (port : BitVec 64)
  /-- `ev_host_controller`, operation code 0x23 (R284). -/
  | evHostController (cc : BitVec 64)
  /-- `ev_device_notification`, operation code 0x24 (R285). -/
  | evDeviceNotification (slot : BitVec 64) (ntype : BitVec 64) (data : BitVec 64)
  /-- `ev_mfindex_wrap`, operation code 0x25 (R286). -/
  | evMfindexWrap
  /-- `cd_from_trbs`, operation code 0x30 (R198). -/
  | cdFromTrbs (trbs : List Trb)
  /-- `td_from_trbs`, operation code 0x31 (R199). -/
  | tdFromTrbs (trbs : List Trb)
  /-- `td_transfer_size`, operation code 0x32 (R200). -/
  | tdTransferSize (td : List Trb)
  deriving DecidableEq, Repr

end Sys2Proof
end

