-- ==== Sys2Proof/WellFormed.lean ====
section
/-! DEFINITION. Which instructions the request format of Decode.lean can carry: identifiers, table counts and sequence
lengths are naturals in the spec and 64-bit words in a request (log entry 4). Every TRB is well-formed
(spec/30_encoding.md R101: "no bit pattern is rejected at this stage"). -/
namespace Sys2Proof

/-- A natural operand that fits its 64-bit word of a request. -/
abbrev fitsWord (n : Nat) : Bool := decide (n < 18446744073709551616)

/-- The well-formedness check, one arm per constructor. -/
def Instr.wf : Instr → Bool
  | .reserved0 _ => true
  | .normal _ => true
  | .setupStage _ => true
  | .dataStage _ => true
  | .statusStage _ => true
  | .isoch _ => true
  | .link _ => true
  | .eventData _ => true
  | .noOp _ => true
  | .enableSlotCmd _ => true
  | .disableSlotCmd _ => true
  | .addressDeviceCmd _ => true
  | .configureEndpointCmd _ => true
  | .evaluateContextCmd _ => true
  | .resetEndpointCmd _ => true
  | .stopEndpointCmd _ => true
  | .setTrDequeuePointerCmd _ => true
  | .resetDeviceCmd _ => true
  | .forceEventCmd _ => true
  | .negotiateBandwidthCmd _ => true
  | .setLatencyToleranceValueCmd _ => true
  | .getPortBandwidthCmd _ => true
  | .forceHeaderCmd _ => true
  | .noOpCmd _ => true
  | .getExtendedPropertyCmd _ => true
  | .setExtendedPropertyCmd _ => true
  | .reserved26 _ => true
  | .reserved27 _ => true
  | .reserved28 _ => true
  | .reserved29 _ => true
  | .reserved30 _ => true
  | .reserved31 _ => true
  | .transferEvent _ => true
  | .commandCompletionEvent _ => true
  | .portStatusChangeEvent _ => true
  | .bandwidthRequestEvent _ => true
  | .doorbellEvent _ => true
  | .hostControllerEvent _ => true
  | .deviceNotificationEvent _ => true
  | .mfIndexWrapEvent _ => true
  | .reserved40 _ => true
  | .reserved41 _ => true
  | .reserved42 _ => true
  | .reserved43 _ => true
  | .reserved44 _ => true
  | .reserved45 _ => true
  | .reserved46 _ => true
  | .reserved47 _ => true
  | .reserved48 _ => true
  | .reserved49 _ => true
  | .reserved50 _ => true
  | .reserved51 _ => true
  | .reserved52 _ => true
  | .reserved53 _ => true
  | .reserved54 _ => true
  | .reserved55 _ => true
  | .reserved56 _ => true
  | .reserved57 _ => true
  | .reserved58 _ => true
  | .reserved59 _ => true
  | .reserved60 _ => true
  | .reserved61 _ => true
  | .reserved62 _ => true
  | .reserved63 _ => true
  | .crCreate id _ _ => fitsWord id
  | .crUpdateFromGuest id => fitsWord id
  | .crReset id _ => fitsWord id
  | .crDequeueTrb id => fitsWord id
  | .crDequeueWorkItem id => fitsWord id
  | .erCreate id _ erstsz _ => fitsWord id && fitsWord erstsz
  | .erIsFull id => fitsWord id
  | .erEnqueue id _ => fitsWord id
  | .erUpdateDequeuePointer id _ => fitsWord id
  | .erUpdateSegmentTable id _ erstsz => fitsWord id && fitsWord erstsz
  | .evTransfer _ _ _ _ _ => true
  | .evCommandCompletion _ _ _ => true
  | .evPortStatusChange _ => true
  | .evHostController _ => true
  | .evDeviceNotification _ _ _ => true
  | .evMfindexWrap => true
  | .cdFromTrbs trbs => fitsWord trbs.length
  | .tdFromTrbs trbs => fitsWord trbs.length
  | .tdTransferSize td => fitsWord td.length

end Sys2Proof
end

