-- ==== Sys2Proof/Decode.lean ====
section
/-! DEFINITION. Byte order, the record format, the typed views, the two decoders (a record of a ring, a request at the
operation port), and after them the encoder. Everything is total; a request that has no meaning is rejected by name. -/
namespace Sys2Proof

/-! ## Byte order (spec/20_memory.md R67, R68) -/

/-- The number whose little-endian bytes are `bs`. -/
def leNat : List Byte → Nat
  | [] => 0
  | b :: bs => b.toNat + 256 * leNat bs

/-- The `n` low bytes of `v`, least significant first. -/
def leBytes : Nat → Nat → List Byte
  | 0, _ => []
  | n + 1, v => BitVec.ofNat 8 v :: leBytes n (v / 256)

/-- The 16 bytes of a record in address order: 8 of `parameter`, 4 of `status`, 4 of `control`
(spec/30_encoding.md R101). -/
def Trb.toBytes (t : Trb) : List Byte :=
  leBytes 8 t.parameter.toNat ++ leBytes 4 t.status.toNat ++ leBytes 4 t.control.toNat

/-- The record that 16 bytes in address order hold (spec/30_encoding.md R101); total, nothing is rejected. -/
def Trb.ofBytes (bs : List Byte) : Trb :=
  ⟨BitVec.ofNat 64 (leNat (bs.take 8)), BitVec.ofNat 32 (leNat ((bs.drop 8).take 4)),
    BitVec.ofNat 32 (leNat ((bs.drop 12).take 4))⟩

/-! ## The common view (spec/30_encoding.md R102) -/

/-- `trb_type = control[15:10]`. -/
def Trb.trbType (t : Trb) : BitVec 6 := t.control.extractLsb' 10 6

/-- `cycle = control[0]`. -/
def Trb.cycle (t : Trb) : Bool := t.control.getLsbD Config.cycleBit

/-- `t.type == Link`. -/
def Trb.isLink (t : Trb) : Bool := t.trbType == Config.typeLink

/-! ## The typed views (spec/30_encoding.md R103, R104, R107) -/

/-- The record of a transfer-class view under type code `c`. -/
def TransferTrb.toTrb (c : BitVec 6) (t : TransferTrb) : Trb :=
  ⟨t.parameter, t.status, t.high ++ c ++ t.mid ++ BitVec.ofBool t.chain ++ t.low ++ BitVec.ofBool t.cycle⟩

/-- The transfer-class view of a record whose type has been read. -/
def TransferTrb.ofTrb (t : Trb) : TransferTrb :=
  ⟨t.parameter, t.status, t.control.extractLsb' 16 16, t.control.extractLsb' 5 5, t.control.getLsbD 4,
    t.control.extractLsb' 1 3, t.control.getLsbD 0⟩

/-- The record of a Link view. -/
def LinkTrb.toTrb (c : BitVec 6) (t : LinkTrb) : Trb :=
  ⟨t.parameter, t.status,
    t.high ++ c ++ t.mid ++ BitVec.ofBool t.chain ++ t.low ++ BitVec.ofBool t.toggleCycle ++ BitVec.ofBool t.cycle⟩

/-- The Link view of a record whose type has been read. -/
def LinkTrb.ofTrb (t : Trb) : LinkTrb :=
  ⟨t.parameter, t.status, t.control.extractLsb' 16 16, t.control.extractLsb' 5 5, t.control.getLsbD 4,
    t.control.extractLsb' 2 2, t.control.getLsbD 1, t.control.getLsbD 0⟩

/-- The record of a plain view under type code `c`. -/
def PlainTrb.toTrb (c : BitVec 6) (t : PlainTrb) : Trb :=
  ⟨t.parameter, t.status, t.high ++ c ++ t.mid ++ BitVec.ofBool t.cycle⟩

/-- The plain view of a record whose type has been read. -/
def PlainTrb.ofTrb (t : Trb) : PlainTrb :=
  ⟨t.parameter, t.status, t.control.extractLsb' 16 16, t.control.extractLsb' 1 9, t.control.getLsbD 0⟩

/-! ## The record decoder: tag first (spec/30_encoding.md R107, R108) -/

/-- The constructor of type code `c`, over the view its class has. A 6-bit code is below 64, so the last arm is
code 63 and nothing falls through to it. -/
def decodeAs (c : BitVec 6) (t : Trb) : Instr :=
  match c.toNat with
  | 0 => .reserved0 (.ofTrb t)
  | 1 => .normal (.ofTrb t)
  | 2 => .setupStage (.ofTrb t)
  | 3 => .dataStage (.ofTrb t)
  | 4 => .statusStage (.ofTrb t)
  | 5 => .isoch (.ofTrb t)
  | 6 => .link (.ofTrb t)
  | 7 => .eventData (.ofTrb t)
  | 8 => .noOp (.ofTrb t)
  | 9 => .enableSlotCmd (.ofTrb t)
  | 10 => .disableSlotCmd (.ofTrb t)
  | 11 => .addressDeviceCmd (.ofTrb t)
  | 12 => .configureEndpointCmd (.ofTrb t)
  | 13 => .evaluateContextCmd (.ofTrb t)
  | 14 => .resetEndpointCmd (.ofTrb t)
  | 15 => .stopEndpointCmd (.ofTrb t)
  | 16 => .setTrDequeuePointerCmd (.ofTrb t)
  | 17 => .resetDeviceCmd (.ofTrb t)
  | 18 => .forceEventCmd (.ofTrb t)
  | 19 => .negotiateBandwidthCmd (.ofTrb t)
  | 20 => .setLatencyToleranceValueCmd (.ofTrb t)
  | 21 => .getPortBandwidthCmd (.ofTrb t)
  | 22 => .forceHeaderCmd (.ofTrb t)
  | 23 => .noOpCmd (.ofTrb t)
  | 24 => .getExtendedPropertyCmd (.ofTrb t)
  | 25 => .setExtendedPropertyCmd (.ofTrb t)
  | 26 => .reserved26 (.ofTrb t)
  | 27 => .reserved27 (.ofTrb t)
  | 28 => .reserved28 (.ofTrb t)
  | 29 => .reserved29 (.ofTrb t)
  | 30 => .reserved30 (.ofTrb t)
  | 31 => .reserved31 (.ofTrb t)
  | 32 => .transferEvent (.ofTrb t)
  | 33 => .commandCompletionEvent (.ofTrb t)
  | 34 => .portStatusChangeEvent (.ofTrb t)
  | 35 => .bandwidthRequestEvent (.ofTrb t)
  | 36 => .doorbellEvent (.ofTrb t)
  | 37 => .hostControllerEvent (.ofTrb t)
  | 38 => .deviceNotificationEvent (.ofTrb t)
  | 39 => .mfIndexWrapEvent (.ofTrb t)
  | 40 => .reserved40 (.ofTrb t)
  | 41 => .reserved41 (.ofTrb t)
  | 42 => .reserved42 (.ofTrb t)
  | 43 => .reserved43 (.ofTrb t)
  | 44 => .reserved44 (.ofTrb t)
  | 45 => .reserved45 (.ofTrb t)
  | 46 => .reserved46 (.ofTrb t)
  | 47 => .reserved47 (.ofTrb t)
  | 48 => .reserved48 (.ofTrb t)
  | 49 => .reserved49 (.ofTrb t)
  | 50 => .reserved50 (.ofTrb t)
  | 51 => .reserved51 (.ofTrb t)
  | 52 => .reserved52 (.ofTrb t)
  | 53 => .reserved53 (.ofTrb t)
  | 54 => .reserved54 (.ofTrb t)
  | 55 => .reserved55 (.ofTrb t)
  | 56 => .reserved56 (.ofTrb t)
  | 57 => .reserved57 (.ofTrb t)
  | 58 => .reserved58 (.ofTrb t)
  | 59 => .reserved59 (.ofTrb t)
  | 60 => .reserved60 (.ofTrb t)
  | 61 => .reserved61 (.ofTrb t)
  | 62 => .reserved62 (.ofTrb t)
  | _ => .reserved63 (.ofTrb t)

/-- Decoding a record: the type tag is read through the common view, then the variant's own view
(spec/30_encoding.md R101, R107). Total: every record is some instruction. -/
def decodeTrb (t : Trb) : Instr := decodeAs t.trbType t

/-! ## The request decoder (spec/30_encoding.md R117, R118; the layout of operands is log entry 4) -/

/-- Why the bytes at the operation port, or of a record, are no instruction. -/
inductive DecodeError where
  /-- an operation code outside the table of spec/30_encoding.md R117 (R118: refused) -/
  | unknownOperation (code : Byte)
  /-- the bytes end before the operation's operands do -/
  | truncated
  /-- bytes are left after the operation's operands -/
  | trailingBytes
  /-- a ring kind that is neither Command nor Transfer (spec/41_consumer_ring.md R181) -/
  | badKind (code : Byte)
  /-- a record that is not 16 bytes long (spec/30_encoding.md R100) -/
  | badRecordLength
  deriving DecidableEq, Repr

/-- A value parsed from the front of a byte list, with the bytes left. -/
abbrev Parsed (α : Type) := Except DecodeError (α × List Byte)

/-- The first `n` bytes. -/
def takeBytes (n : Nat) (bs : List Byte) : Parsed (List Byte) :=
  if n ≤ bs.length then .ok (bs.take n, bs.drop n) else .error .truncated

/-- A natural number operand: 8 bytes, little-endian. -/
def takeNat (bs : List Byte) : Parsed Nat :=
  match takeBytes 8 bs with
  | .ok (w, rest) => .ok (leNat w, rest)
  | .error e => .error e

/-- A 64-bit operand: 8 bytes, little-endian. -/
def takeWord (bs : List Byte) : Parsed (BitVec 64) :=
  match takeNat bs with
  | .ok (n, rest) => .ok (BitVec.ofNat 64 n, rest)
  | .error e => .error e

/-- A ring kind: one byte, 0 for Command and 1 for Transfer. -/
def takeKind : List Byte → Parsed RingKind
  | [] => .error .truncated
  | b :: rest =>
    if b = 0#8 then .ok (.command, rest) else if b = 1#8 then .ok (.transfer, rest) else .error (.badKind b)

/-- A TRB operand: the 16 bytes of the record. -/
def takeTrb (bs : List Byte) : Parsed Trb :=
  match takeBytes 16 bs with
  | .ok (r, rest) => .ok (Trb.ofBytes r, rest)
  | .error e => .error e

/-- `n` TRB operands one after another. -/
def takeTrbs : Nat → List Byte → Parsed (List Trb)
  | 0, bs => .ok ([], bs)
  | n + 1, bs =>
    match takeTrb bs with
    | .error e => .error e
    | .ok (t, rest) =>
      match takeTrbs n rest with
      | .ok (ts, rest') => .ok (t :: ts, rest')
      | .error e => .error e

/-- A sequence of TRBs: its length as a natural number operand, then the records. -/
def takeTrbList (bs : List Byte) : Parsed (List Trb) :=
  match takeNat bs with
  | .ok (n, rest) => takeTrbs n rest
  | .error e => .error e

/-- Parse one more operand and hand it on. -/
def withOperand {α β : Type} (p : Parsed α) (k : α → List Byte → Parsed β) : Parsed β :=
  match p with
  | .ok (a, rest) => k a rest
  | .error e => .error e

/-- The request at the front of a byte list: the operation code, then (where the operation has one) the instance, then
the operands in the order of the table of spec/30_encoding.md R117. -/
def parseRequest : List Byte → Parsed Instr
  | [] => .error .truncated
  | code :: bs =>
    match code.toNat with
    | 1 => withOperand (takeNat bs) fun id bs => withOperand (takeKind bs) fun kind bs => withOperand (takeWord bs) fun base bs => .ok (.crCreate id kind base, bs)
    | 2 => withOperand (takeNat bs) fun id bs => .ok (.crUpdateFromGuest id, bs)
    | 3 => withOperand (takeNat bs) fun id bs => withOperand (takeWord bs) fun pointer bs => .ok (.crReset id pointer, bs)
    | 4 => withOperand (takeNat bs) fun id bs => .ok (.crDequeueTrb id, bs)
    | 5 => withOperand (takeNat bs) fun id bs => .ok (.crDequeueWorkItem id, bs)
    | 16 => withOperand (takeNat bs) fun id bs => withOperand (takeWord bs) fun erstba bs => withOperand (takeNat bs) fun erstsz bs => withOperand (takeWord bs) fun erdp bs => .ok (.erCreate id erstba erstsz erdp, bs)
    | 17 => withOperand (takeNat bs) fun id bs => .ok (.erIsFull id, bs)
    | 18 => withOperand (takeNat bs) fun id bs => withOperand (takeTrb bs) fun event bs => .ok (.erEnqueue id event, bs)
    | 19 => withOperand (takeNat bs) fun id bs => withOperand (takeWord bs) fun addr bs => .ok (.erUpdateDequeuePointer id addr, bs)
    | 20 => withOperand (takeNat bs) fun id bs => withOperand (takeWord bs) fun erstba bs => withOperand (takeNat bs) fun erstsz bs => .ok (.erUpdateSegmentTable id erstba erstsz, bs)
    | 32 => withOperand (takeWord bs) fun trbPointer bs => withOperand (takeWord bs) fun length bs => withOperand (takeWord bs) fun slot bs => withOperand (takeWord bs) fun endpoint bs => withOperand (takeWord bs) fun cc bs => .ok (.evTransfer trbPointer length slot endpoint cc, bs)
    | 33 => withOperand (takeWord bs) fun cc bs => withOperand (takeWord bs) fun slot bs => withOperand (takeWord bs) fun commandAddress bs => .ok (.evCommandCompletion cc slot commandAddress, bs)
    | 34 => withOperand (takeWord bs) fun port bs => .ok (.evPortStatusChange port, bs)
    | 35 => withOperand (takeWord bs) fun cc bs => .ok (.evHostController cc, bs)
    | 36 => withOperand (takeWord bs) fun slot bs => withOperand (takeWord bs) fun ntype bs => withOperand (takeWord bs) fun data bs => .ok (.evDeviceNotification slot ntype data, bs)
    | 37 => .ok (.evMfindexWrap, bs)
    | 48 => withOperand (takeTrbList bs) fun trbs bs => .ok (.cdFromTrbs trbs, bs)
    | 49 => withOperand (takeTrbList bs) fun trbs bs => .ok (.tdFromTrbs trbs, bs)
    | 50 => withOperand (takeTrbList bs) fun td bs => .ok (.tdTransferSize td, bs)
    | _ => .error (.unknownOperation code)

/-- One request: a transaction holds exactly one, with nothing after it. -/
def decodeRequest (bs : List Byte) : Except DecodeError Instr :=
  match parseRequest bs with
  | .ok (i, []) => .ok i
  | .ok (_, _ :: _) => .error .trailingBytes
  | .error e => .error e

/-- Where an instruction comes from: a ring (a record) or the operation port (a request). -/
inductive Source where
  | ring
  | port
  deriving DecidableEq, Repr

/-- The decoder, total on any bytes. -/
def decode (src : Source) (bs : List Byte) : Except DecodeError Instr :=
  match src with
  | .ring => if bs.length = Config.recordBytes then .ok (decodeTrb (Trb.ofBytes bs)) else .error .badRecordLength
  | .port => decodeRequest bs

/-! ## The encoder -/

/-- The record a TRB instruction stands for; none for an operation. -/
def Instr.trb? : Instr → Option Trb
  | .reserved0 t => some (t.toTrb 0#6)
  | .normal t => some (t.toTrb 1#6)
  | .setupStage t => some (t.toTrb 2#6)
  | .dataStage t => some (t.toTrb 3#6)
  | .statusStage t => some (t.toTrb 4#6)
  | .isoch t => some (t.toTrb 5#6)
  | .link t => some (t.toTrb 6#6)
  | .eventData t => some (t.toTrb 7#6)
  | .noOp t => some (t.toTrb 8#6)
  | .enableSlotCmd t => some (t.toTrb 9#6)
  | .disableSlotCmd t => some (t.toTrb 10#6)
  | .addressDeviceCmd t => some (t.toTrb 11#6)
  | .configureEndpointCmd t => some (t.toTrb 12#6)
  | .evaluateContextCmd t => some (t.toTrb 13#6)
  | .resetEndpointCmd t => some (t.toTrb 14#6)
  | .stopEndpointCmd t => some (t.toTrb 15#6)
  | .setTrDequeuePointerCmd t => some (t.toTrb 16#6)
  | .resetDeviceCmd t => some (t.toTrb 17#6)
  | .forceEventCmd t => some (t.toTrb 18#6)
  | .negotiateBandwidthCmd t => some (t.toTrb 19#6)
  | .setLatencyToleranceValueCmd t => some (t.toTrb 20#6)
  | .getPortBandwidthCmd t => some (t.toTrb 21#6)
  | .forceHeaderCmd t => some (t.toTrb 22#6)
  | .noOpCmd t => some (t.toTrb 23#6)
  | .getExtendedPropertyCmd t => some (t.toTrb 24#6)
  | .setExtendedPropertyCmd t => some (t.toTrb 25#6)
  | .reserved26 t => some (t.toTrb 26#6)
  | .reserved27 t => some (t.toTrb 27#6)
  | .reserved28 t => some (t.toTrb 28#6)
  | .reserved29 t => some (t.toTrb 29#6)
  | .reserved30 t => some (t.toTrb 30#6)
  | .reserved31 t => some (t.toTrb 31#6)
  | .transferEvent t => some (t.toTrb 32#6)
  | .commandCompletionEvent t => some (t.toTrb 33#6)
  | .portStatusChangeEvent t => some (t.toTrb 34#6)
  | .bandwidthRequestEvent t => some (t.toTrb 35#6)
  | .doorbellEvent t => some (t.toTrb 36#6)
  | .hostControllerEvent t => some (t.toTrb 37#6)
  | .deviceNotificationEvent t => some (t.toTrb 38#6)
  | .mfIndexWrapEvent t => some (t.toTrb 39#6)
  | .reserved40 t => some (t.toTrb 40#6)
  | .reserved41 t => some (t.toTrb 41#6)
  | .reserved42 t => some (t.toTrb 42#6)
  | .reserved43 t => some (t.toTrb 43#6)
  | .reserved44 t => some (t.toTrb 44#6)
  | .reserved45 t => some (t.toTrb 45#6)
  | .reserved46 t => some (t.toTrb 46#6)
  | .reserved47 t => some (t.toTrb 47#6)
  | .reserved48 t => some (t.toTrb 48#6)
  | .reserved49 t => some (t.toTrb 49#6)
  | .reserved50 t => some (t.toTrb 50#6)
  | .reserved51 t => some (t.toTrb 51#6)
  | .reserved52 t => some (t.toTrb 52#6)
  | .reserved53 t => some (t.toTrb 53#6)
  | .reserved54 t => some (t.toTrb 54#6)
  | .reserved55 t => some (t.toTrb 55#6)
  | .reserved56 t => some (t.toTrb 56#6)
  | .reserved57 t => some (t.toTrb 57#6)
  | .reserved58 t => some (t.toTrb 58#6)
  | .reserved59 t => some (t.toTrb 59#6)
  | .reserved60 t => some (t.toTrb 60#6)
  | .reserved61 t => some (t.toTrb 61#6)
  | .reserved62 t => some (t.toTrb 62#6)
  | .reserved63 t => some (t.toTrb 63#6)
  | .crCreate _ _ _ => none
  | .crUpdateFromGuest _ => none
  | .crReset _ _ => none
  | .crDequeueTrb _ => none
  | .crDequeueWorkItem _ => none
  | .erCreate _ _ _ _ => none
  | .erIsFull _ => none
  | .erEnqueue _ _ => none
  | .erUpdateDequeuePointer _ _ => none
  | .erUpdateSegmentTable _ _ _ => none
  | .evTransfer _ _ _ _ _ => none
  | .evCommandCompletion _ _ _ => none
  | .evPortStatusChange _ => none
  | .evHostController _ => none
  | .evDeviceNotification _ _ _ => none
  | .evMfindexWrap => none
  | .cdFromTrbs _ => none
  | .tdFromTrbs _ => none
  | .tdTransferSize _ => none

/-- A natural number or 64-bit operand of a request. -/
def putNat (n : Nat) : List Byte := leBytes 8 n

/-- A ring kind operand of a request. -/
def putKind : RingKind → List Byte
  | .command => [0#8]
  | .transfer => [1#8]

/-- A sequence of TRBs as an operand of a request. -/
def putTrbList (ts : List Trb) : List Byte := putNat ts.length ++ ts.flatMap Trb.toBytes

/-- Where an instruction's bytes stand. -/
def Instr.source (i : Instr) : Source :=
  match i.trb? with
  | some _ => .ring
  | none => .port

/-- The bytes of an instruction: the 16 bytes of a record, or the bytes of a request. -/
def encode : Instr → List Byte
  | .reserved0 t => (t.toTrb 0#6).toBytes
  | .normal t => (t.toTrb 1#6).toBytes
  | .setupStage t => (t.toTrb 2#6).toBytes
  | .dataStage t => (t.toTrb 3#6).toBytes
  | .statusStage t => (t.toTrb 4#6).toBytes
  | .isoch t => (t.toTrb 5#6).toBytes
  | .link t => (t.toTrb 6#6).toBytes
  | .eventData t => (t.toTrb 7#6).toBytes
  | .noOp t => (t.toTrb 8#6).toBytes
  | .enableSlotCmd t => (t.toTrb 9#6).toBytes
  | .disableSlotCmd t => (t.toTrb 10#6).toBytes
  | .addressDeviceCmd t => (t.toTrb 11#6).toBytes
  | .configureEndpointCmd t => (t.toTrb 12#6).toBytes
  | .evaluateContextCmd t => (t.toTrb 13#6).toBytes
  | .resetEndpointCmd t => (t.toTrb 14#6).toBytes
  | .stopEndpointCmd t => (t.toTrb 15#6).toBytes
  | .setTrDequeuePointerCmd t => (t.toTrb 16#6).toBytes
  | .resetDeviceCmd t => (t.toTrb 17#6).toBytes
  | .forceEventCmd t => (t.toTrb 18#6).toBytes
  | .negotiateBandwidthCmd t => (t.toTrb 19#6).toBytes
  | .setLatencyToleranceValueCmd t => (t.toTrb 20#6).toBytes
  | .getPortBandwidthCmd t => (t.toTrb 21#6).toBytes
  | .forceHeaderCmd t => (t.toTrb 22#6).toBytes
  | .noOpCmd t => (t.toTrb 23#6).toBytes
  | .getExtendedPropertyCmd t => (t.toTrb 24#6).toBytes
  | .setExtendedPropertyCmd t => (t.toTrb 25#6).toBytes
  | .reserved26 t => (t.toTrb 26#6).toBytes
  | .reserved27 t => (t.toTrb 27#6).toBytes
  | .reserved28 t => (t.toTrb 28#6).toBytes
  | .reserved29 t => (t.toTrb 29#6).toBytes
  | .reserved30 t => (t.toTrb 30#6).toBytes
  | .reserved31 t => (t.toTrb 31#6).toBytes
  | .transferEvent t => (t.toTrb 32#6).toBytes
  | .commandCompletionEvent t => (t.toTrb 33#6).toBytes
  | .portStatusChangeEvent t => (t.toTrb 34#6).toBytes
  | .bandwidthRequestEvent t => (t.toTrb 35#6).toBytes
  | .doorbellEvent t => (t.toTrb 36#6).toBytes
  | .hostControllerEvent t => (t.toTrb 37#6).toBytes
  | .deviceNotificationEvent t => (t.toTrb 38#6).toBytes
  | .mfIndexWrapEvent t => (t.toTrb 39#6).toBytes
  | .reserved40 t => (t.toTrb 40#6).toBytes
  | .reserved41 t => (t.toTrb 41#6).toBytes
  | .reserved42 t => (t.toTrb 42#6).toBytes
  | .reserved43 t => (t.toTrb 43#6).toBytes
  | .reserved44 t => (t.toTrb 44#6).toBytes
  | .reserved45 t => (t.toTrb 45#6).toBytes
  | .reserved46 t => (t.toTrb 46#6).toBytes
  | .reserved47 t => (t.toTrb 47#6).toBytes
  | .reserved48 t => (t.toTrb 48#6).toBytes
  | .reserved49 t => (t.toTrb 49#6).toBytes
  | .reserved50 t => (t.toTrb 50#6).toBytes
  | .reserved51 t => (t.toTrb 51#6).toBytes
  | .reserved52 t => (t.toTrb 52#6).toBytes
  | .reserved53 t => (t.toTrb 53#6).toBytes
  | .reserved54 t => (t.toTrb 54#6).toBytes
  | .reserved55 t => (t.toTrb 55#6).toBytes
  | .reserved56 t => (t.toTrb 56#6).toBytes
  | .reserved57 t => (t.toTrb 57#6).toBytes
  | .reserved58 t => (t.toTrb 58#6).toBytes
  | .reserved59 t => (t.toTrb 59#6).toBytes
  | .reserved60 t => (t.toTrb 60#6).toBytes
  | .reserved61 t => (t.toTrb 61#6).toBytes
  | .reserved62 t => (t.toTrb 62#6).toBytes
  | .reserved63 t => (t.toTrb 63#6).toBytes
  | .crCreate id kind base => 0x01#8 :: (putNat id ++ putKind kind ++ putNat base.toNat)
  | .crUpdateFromGuest id => 0x02#8 :: putNat id
  | .crReset id pointer => 0x03#8 :: (putNat id ++ putNat pointer.toNat)
  | .crDequeueTrb id => 0x04#8 :: putNat id
  | .crDequeueWorkItem id => 0x05#8 :: putNat id
  | .erCreate id erstba erstsz erdp => 0x10#8 :: (putNat id ++ putNat erstba.toNat ++ putNat erstsz ++ putNat erdp.toNat)
  | .erIsFull id => 0x11#8 :: putNat id
  | .erEnqueue id event => 0x12#8 :: (putNat id ++ event.toBytes)
  | .erUpdateDequeuePointer id addr => 0x13#8 :: (putNat id ++ putNat addr.toNat)
  | .erUpdateSegmentTable id erstba erstsz => 0x14#8 :: (putNat id ++ putNat erstba.toNat ++ putNat erstsz)
  | .evTransfer trbPointer length slot endpoint cc => 0x20#8 :: (putNat trbPointer.toNat ++ putNat length.toNat ++ putNat slot.toNat ++ putNat endpoint.toNat ++ putNat cc.toNat)
  | .evCommandCompletion cc slot commandAddress => 0x21#8 :: (putNat cc.toNat ++ putNat slot.toNat ++ putNat commandAddress.toNat)
  | .evPortStatusChange port => 0x22#8 :: putNat port.toNat
  | .evHostController cc => 0x23#8 :: putNat cc.toNat
  | .evDeviceNotification slot ntype data => 0x24#8 :: (putNat slot.toNat ++ putNat ntype.toNat ++ putNat data.toNat)
  | .evMfindexWrap => 0x25#8 :: []
  | .cdFromTrbs trbs => 0x30#8 :: putTrbList trbs
  | .tdFromTrbs trbs => 0x31#8 :: putTrbList trbs
  | .tdTransferSize td => 0x32#8 :: putTrbList td

/-- The instruction whose bits are `w`, numbered as spec/opcode_table.json numbers them: an operation row (8 bits)
numbers the operation code, and the operands after it are zero; a TRB row numbers `control`, and `parameter` and
`status` are zero. -/
def decodeTableWord (nbits w : Nat) : Option Instr :=
  if nbits ≤ 8 then
    match parseRequest (BitVec.ofNat 8 w :: List.replicate 64 0#8) with
    | .ok (i, _) => some i
    | .error _ => none
  else some (decodeTrb ⟨0, 0, BitVec.ofNat 32 w⟩)

end Sys2Proof
end

