-- ==== Sys2Proof/Machine/State.lean ====
section
/-! DEFINITION. The state of the machine as plain data: the instances the spec gives the block (spec/10_state.md), the
operation in progress, and the block's environment as far as one step needs it (guest memory, what the guest and the
memory service do next, the requests the dispatch layer issues next). -/
namespace Sys2Proof.Machine
open Sys2Proof

/-! ## Instances (spec/10_state.md sections 2 and 3) -/

/-- Consumer Ring state (spec/10_state.md R22 to R26). -/
structure ConsumerRing where
  /-- `kind` (R22) -/
  kind : RingKind
  /-- `base` (R23) -/
  base : Addr
  /-- `shadow`, in traversal order, Link TRBs included (R24) -/
  shadow : List Trb
  /-- `dequeue_index`, a natural number below 2^60 (R25) -/
  dequeueIndex : Nat
  /-- `ccs`, the consumer cycle state (R26) -/
  ccs : Bool
  deriving DecidableEq, Repr

/-- A Ring Segment: base address and capacity in slots (spec/10_state.md R28). -/
structure Segment where
  base : Addr
  cap : Nat
  deriving DecidableEq, Repr

/-- Event Ring state (spec/10_state.md R28 to R33). -/
structure EventRing where
  /-- `segs`, the cached segment table (R28) -/
  segs : List Segment
  /-- `seg_index` (R29) -/
  segIndex : Nat
  /-- `remaining`, counting the slot at the enqueue pointer (R30) -/
  remaining : Nat
  /-- `enqueue_pointer` (R31) -/
  enqueuePointer : Addr
  /-- `pcs`, the producer cycle state (R32) -/
  pcs : Bool
  /-- `dequeue_pointer`; `none` is the spec's "unknown" (R33) -/
  dequeuePointer : Option Addr
  deriving DecidableEq, Repr

/-- An instance is a Consumer Ring or an Event Ring (spec/10_state.md R20). -/
inductive RingInstance where
  | consumer (c : ConsumerRing)
  | event (r : EventRing)
  deriving DecidableEq, Repr

/-- The finite set of instances by identifier, in one canonical form: identifiers strictly rising. Both kinds share the
identifiers (DESIGN CHOICE, log entry 3). -/
abbrev Instances := List (InstId × RingInstance)

/-- The canonical form of the set of instances. -/
abbrev Instances.wf (m : Instances) : Prop := (m.map Prod.fst).Pairwise (· < ·)

/-! ## Guest memory -/

/-- Guest physical memory as the guest memory service serves it: the bytes at the addresses it accepts. An address
that is not listed is one the service does not accept (log entry 6). -/
abbrev Memory := List Host.Cell

/-- The canonical form: addresses strictly rising and below 2^64. An unlisted address has no value, so no entry can
equal it. -/
abbrev Memory.wf (m : Memory) : Prop :=
  (m.map Prod.fst).Pairwise (· < ·) ∧ ∀ c ∈ m, c.1 < 18446744073709551616

/-! ## Results (spec/60_exceptions.md R300) -/

/-- A descriptor, the chainer's output (spec/41_consumer_ring.md R198, R199). -/
inductive Descriptor where
  | command (t : Trb)
  | transfer (ts : List Trb)
  deriving DecidableEq, Repr

/-- The payload of status `OK` (the table of spec/30_encoding.md R117). -/
inductive Payload where
  /-- `Ok` with no payload -/
  | nothing
  /-- `cr_dequeue_trb`: `Some(trb)` or `None` -/
  | trb (t : Option Trb)
  /-- `cr_dequeue_work_item`: `Item` -/
  | item (d : Descriptor)
  /-- `cr_dequeue_work_item`: `NoWork` -/
  | noWork
  /-- `er_is_full` -/
  | full (b : Bool)
  /-- `er_enqueue`: `Accepted` -/
  | accepted
  /-- a builder's TRB value -/
  | event (t : Trb)
  /-- `cd_from_trbs`, `td_from_trbs` -/
  | descriptor (d : Descriptor)
  /-- `td_transfer_size` -/
  | size (n : Nat)
  deriving DecidableEq, Repr

/-- The statuses other than `OK`, with the information each carries (spec/60_exceptions.md R300). These are results of
operations that the machine delivers and goes on after; none of them stops the machine. -/
inductive OpError where
  /-- the guest address of the failing access (R302) -/
  | eMem (addr : Addr)
  | eRingTooLarge
  | eMissingLink
  /-- the index of the first offending descriptor (R305) -/
  | eInvalidSegmentSize (index : Nat)
  | eEmptySegmentTable
  | eIncomplete
  | eCyclicIncomplete
  /-- the number of TRBs found (R300) -/
  | eSizeMismatch (count : Nat)
  /-- the caller's event handed back, and whether a full-notification record was written (R318) -/
  | eventRingFull (event : Trb) (sentinelWritten : Bool)
  | eSegmentTableTooLarge
  deriving DecidableEq, Repr

/-- A result `(status, payload)` of the operation port (spec/30_encoding.md R117). -/
inductive OpResult where
  | ok (p : Payload)
  | error (e : OpError)
  deriving DecidableEq, Repr

/-! ## The operation in progress (spec/20_memory.md R78: accesses are issued one at a time) -/

/-- What `cr_dequeue_work_item` has gathered so far (the local variables of spec/41_consumer_ring.md R193). -/
structure Gather where
  savedIndex : Nat
  savedCcs : Bool
  item : List Trb
  passed : Nat
  deriving DecidableEq, Repr

/-- Which operation reads the segment table (spec/42_event_ring.md R231, R244). -/
inductive TablePurpose where
  | create (erdp : Addr)
  | update
  deriving DecidableEq, Repr

/-- The operation in progress, with the local variables of its pseudocode; one at a time (spec/60_exceptions.md R324). -/
inductive Activity where
  /-- no operation is in progress: the next step takes a request -/
  | idle
  /-- `cr_update_from_guest`: the loop variables `new` and `addr` (spec/41_consumer_ring.md R183) -/
  | refresh (id : InstId) (gathered : List Trb) (addr : Addr)
  /-- `cr_dequeue_trb` (no `gather`), or the same walk inside `cr_dequeue_work_item`: the loop variable `start`
  (spec/41_consumer_ring.md R189, R193) -/
  | dequeue (id : InstId) (start : Nat) (gather : Option Gather)
  /-- `read_table`: its operands and the descriptors read so far (spec/42_event_ring.md R232) -/
  | readTable (id : InstId) (purpose : TablePurpose) (erstba : Addr) (erstsz : Nat) (raw : List Segment)
  deriving DecidableEq, Repr

/-! ## The environment -/

/-- One thing the guest (or the service's mapping) does to one byte of guest memory: the address holds `value`, or is
no longer accepted by the service (`none`). -/
structure Poke where
  addr : Addr
  value : Option Byte
  deriving DecidableEq, Repr

/-- What the environment does at one step of the engine (spec/00_scope.md R9, spec/20_memory.md R61, R74): first any
number of guest writes, then the memory service's verdict on the access of this step, if it makes one. -/
structure Turn where
  pokes : List Poke
  /-- the service answers this step's access with `Fail` whatever the address -/
  fails : Bool
  deriving DecidableEq, Repr

/-- The state of the machine. -/
structure State where
  /-- the parameters (spec/00_scope.md R8); no step writes them (DESIGN CHOICE, log entry 15) -/
  params : Params
  /-- the instances (spec/10_state.md R20) -/
  instances : Instances
  /-- the operation in progress -/
  activity : Activity
  /-- the result the operation port delivered last; `none` while an operation is in progress (DESIGN
  CHOICE, log entry 8) -/
  result : Option OpResult
  /-- the requests the dispatch layer issues next, oldest first; each is the bytes of one request -/
  requests : List (List Byte)
  /-- guest memory -/
  mem : Memory
  /-- what the environment does at the coming steps, soonest first; when empty it does nothing -/
  turns : List Turn
  /-- the service's verdict on the access of the present step is `Fail` -/
  serviceFails : Bool
  /-- how many free values have been used (log entry 5) -/
  freeCount : Nat
  deriving DecidableEq, Repr

/-- What stops the machine. Both are raised only in states no run from reset reaches; nothing in the spec stops the
block (spec/60_exceptions.md R301). -/
inductive Fault where
  /-- raised by a step whose operation in progress names an instance that does not exist or is of the other kind;
  safe: it stops where the spec says nothing -/
  | lostInstance (id : InstId)
  /-- raised by `er_is_full`, `er_enqueue` and the end of `read_table` when the segment table they index is empty or
  too short; safe: spec/10_state.md R28 gives every Event Ring at least one segment -/
  | noSegment
  deriving DecidableEq, Repr

/-- Why a request or a record has no meaning (spec/60_exceptions.md R320: refusal is no status). -/
inductive Refusal where
  /-- raised by no meaning: an instruction whose arm is not written -/
  | notModelled (mnemonic : String)
  /-- raised by the fetch of a request whose bytes are no request of spec/30_encoding.md R117 (R118, R320); safe -/
  | badRequest (e : DecodeError)
  /-- raised by an operation that names an instance that does not exist (R320); safe -/
  | noInstance (id : InstId)
  /-- raised by a consumer operation on an Event Ring or the reverse (R320); safe -/
  | wrongKind (id : InstId)
  /-- raised by an operation requested while another is in progress (spec/70_reset_and_hazards.md R375: a move the
  dispatch layer never makes); no step raises it; safe -/
  | busy
  /-- raised by a TRB instruction executed while no walk or refresh is at a record; no step raises it; safe -/
  | noRecordAtHand
  /-- raised by a create that would make more instances than `N_CONSUMER` or `N_EVENT` (log entry 9); safe -/
  | tooManyInstances
  deriving DecidableEq, Repr

/-- The outcome of one step of this machine. -/
abbrev Result := Host.Outcome State Fault Refusal

/-- The reset state: no instance exists (spec/10_state.md R41, spec/70_reset_and_hazards.md R350). The environment
fields are empty: no address is served, no request waits, the environment does nothing (log entries 6 and 7). What a
reset of a running block does, and what it leaves of the environment, is `resetBlock` (log entry 19). -/
def State.reset : State where
  params := Config.params
  instances := []
  activity := .idle
  result := none
  requests := []
  mem := []
  turns := []
  serviceFails := false
  freeCount := 0

end Sys2Proof.Machine
end

