-- ==== Sys2Proof/Machine/Operands.lean ====
section
/-! DEFINITION. The operand forms: the type-specific fields of a record, Link targets, the reset index, segment
descriptors, and the event records the builders assemble. -/
namespace Sys2Proof.Machine
open Sys2Proof

/-! ## Fields of a record (spec/30_encoding.md R103 to R106, R110) -/

/-- The chain-bearing types: Normal, SetupStage, DataStage, StatusStage, Isoch and Link (R103). -/
def chainBearing (c : BitVec 6) : Bool := decide (1 ≤ c.toNat) && decide (c.toNat ≤ 6)

/-- `chain(t)`: the chain bit of a chain-bearing type, false for every other type (R103). -/
def chainOf (t : Trb) : Bool := chainBearing t.trbType && t.control.getLsbD Config.chainBit

/-- `toggle(t)`: the toggle bit of a Link, false for every other type (R104). -/
def toggleOf (t : Trb) : Bool := t.isLink && t.control.getLsbD Config.toggleBit

/-- `xfer_len(t) = status[16:0]`, the transfer-status view (R105), read without a type test as `td_transfer_size` does, the
one exception of R107 (spec/41_consumer_ring.md R200). -/
def xferLen (t : Trb) : Nat := (t.status.extractLsb' 0 17).toNat

/-- The event class: types 32 to 39 (the class column of R108). -/
def eventClass (c : BitVec 6) : Bool := decide (32 ≤ c.toNat) && decide (c.toNat ≤ 39)

/-- The event-status view of a record: its `status`, after the type says that it is of the event class; no other record
has this view (R107). -/
def eventView (t : Trb) : Option (BitVec 32) := if eventClass t.trbType then some t.status else none

/-- `evt_len(t) = status[23:0]` in the event-status view (R106, R107). -/
def evtLen (t : Trb) : Option Nat := (eventView t).map fun status => (status.extractLsb' 0 24).toNat

/-- `evt_cc(t) = status[31:24]` in the event-status view (R106, R107). -/
def evtCc (t : Trb) : Option (BitVec 8) := (eventView t).map fun status => status.extractLsb' 24 8

/-- `link_target = parameter & ~0xF` (R110). -/
def linkTarget (parameter : BitVec 64) : Addr := parameter &&& 0xFFFFFFFFFFFFFFF0#64

/-- A record that closes the ring at `base`: a Link whose masked target is `base` (spec/41_consumer_ring.md R183). -/
def closesRing (base : Addr) (t : Trb) : Bool := t.isLink && linkTarget t.parameter == base

/-! ## Addresses and indexes -/

/-- The address of the next slot of a segment: modulo 2^64 (spec/20_memory.md R69). -/
def nextSlotAddr (a : Addr) : Addr := a + 16#64

/-- The address of descriptor `i` of a table (spec/30_encoding.md R112). -/
def descriptorAddr (erstba : Addr) (i : Nat) : Addr := erstba + BitVec.ofNat 64 (16 * i)

/-- `((pointer - base) mod 2^64) div 16` (spec/30_encoding.md R111). -/
def resetIndex (base pointer : Addr) : Nat := (pointer - base).toNat / 16

/-! ## Segment descriptors (spec/30_encoding.md R112, spec/20_memory.md R68) -/

/-- Base in bytes 0 to 7, capacity in bytes 8 and 9, the rest ignored. -/
def decodeDescriptor (bs : List Byte) : Segment :=
  ⟨BitVec.ofNat 64 (leNat (bs.take 8)), leNat ((bs.drop 8).take 2)⟩

/-- The capacity range of spec/10_state.md R28. -/
def capValid (g : Segment) : Bool := decide (Config.segMin ≤ g.cap) && decide (g.cap ≤ Config.segMax)

/-- The index of the first descriptor with a bad capacity, counting from `i` (spec/42_event_ring.md R232). -/
def firstBadFrom (i : Nat) : List Segment → Option Nat
  | [] => none
  | g :: gs => if capValid g then firstBadFrom (i + 1) gs else some i

/-! ## Event records (spec/43_event_builders.md); operands are truncated to their fields (R280) -/

/-- `status` of an event record: completion code over length (R106). -/
def eventStatus (cc : BitVec 8) (length : BitVec 24) : BitVec 32 := cc ++ length

/-- `control` of an event record: bits 31:24, 23:16, the type, and the cycle bit 0 (R280). -/
def eventControl (top second : BitVec 8) (type : BitVec 6) : BitVec 32 := top ++ second ++ type ++ 0#10

/-- Transfer Event (R281). -/
def transferEvent (trbPointer length slot endpoint cc : BitVec 64) : Trb :=
  ⟨trbPointer, eventStatus (cc.setWidth 8) (length.setWidth 24),
    eventControl (slot.setWidth 8) (0#3 ++ endpoint.setWidth 5) 32#6⟩

/-- Command Completion Event (R282). -/
def commandCompletionEvent (cc slot commandAddress : BitVec 64) : Trb :=
  ⟨commandAddress, eventStatus (cc.setWidth 8) 0#24, eventControl (slot.setWidth 8) 0#8 33#6⟩

/-- Port Status Change Event (R283). -/
def portStatusChangeEvent (port : BitVec 64) : Trb :=
  ⟨0#32 ++ port.setWidth 8 ++ 0#24, eventStatus Config.ccSuccess 0#24, eventControl 0#8 0#8 34#6⟩

/-- Host Controller Event (R284). -/
def hostControllerEvent (cc : BitVec 64) : Trb :=
  ⟨0#64, eventStatus (cc.setWidth 8) 0#24, eventControl 0#8 0#8 37#6⟩

/-- Device Notification Event (R285). -/
def deviceNotificationEvent (slot ntype data : BitVec 64) : Trb :=
  ⟨data.setWidth 56 ++ ntype.setWidth 4 ++ 0#4, eventStatus Config.ccSuccess 0#24,
    eventControl (slot.setWidth 8) 0#8 38#6⟩

/-- MFINDEX Wrap Event (R286). -/
def mfIndexWrapEvent : Trb := ⟨0#64, eventStatus Config.ccSuccess 0#24, eventControl 0#8 0#8 39#6⟩

/-- `ERF_TRB`, the full-notification record before it is stamped (spec/42_event_ring.md R242). -/
def erfTrb : Trb := ⟨0#64, eventStatus Config.ccEventRingFull 0#24, eventControl 0#8 0#8 37#6⟩

end Sys2Proof.Machine
end

