-- ==== Sys2Proof/Machine/Flags.lean ====
section
/-! DEFINITION. The flag computations: the three flags of the block are `ccs`, `pcs` and the known/unknown tag of the
Event Ring's dequeue pointer (spec/10_state.md R37). -/
namespace Sys2Proof.Machine
open Sys2Proof

/-- `ccs` after a Link is passed: flipped iff its `toggle_cycle` is 1 (spec/41_consumer_ring.md R190). -/
def ccsAfterLink (toggle ccs : Bool) : Bool := if toggle then !ccs else ccs

/-- `pcs` after a segment is exhausted: flipped iff the ring wraps to segment 0 (spec/42_event_ring.md R237). -/
def pcsAfterSegment (wraps pcs : Bool) : Bool := if wraps then !pcs else pcs

/-- The stamp: bit 0 of `control` becomes `pcs`, every other bit stays (spec/42_event_ring.md R237). -/
def stamp (t : Trb) (pcs : Bool) : Trb :=
  { t with control := (t.control &&& 0xFFFFFFFE#32) ||| (BitVec.ofBool pcs).setWidth 32 }

/-- A slot is available to the consumer exactly when its cycle bit equals `ccs` (spec/10_state.md R26). -/
def available (t : Trb) (ccs : Bool) : Bool := t.cycle == ccs

end Sys2Proof.Machine
end

