-- ==== Sys2Proof/Machine/Ops.lean ====
section
/-! DEFINITION. The shared operations: guest memory, the set of instances, delivering a result, raising an error (what
this hardware has for taking an exception, spec/60_exceptions.md) and rolling back. -/
namespace Sys2Proof.Machine
open Sys2Proof

/-! ## Bytes of guest memory -/

/-- The byte at an address, `none` where the service accepts no access. -/
def byteAt : Memory → Nat → Option Byte
  | [], _ => none
  | (k, b) :: m, a => if a = k then some b else byteAt m a

/-- Memory with the byte at `a` set, in canonical form. -/
def setByte : Memory → Nat → Byte → Memory
  | [], a, b => [(a, b)]
  | (k, c) :: m, a, b =>
    if a < k then (a, b) :: (k, c) :: m else if a = k then (a, b) :: m else (k, c) :: setByte m a b

/-- Memory with the address `a` no longer accepted. -/
def dropByte : Memory → Nat → Memory
  | [], _ => []
  | (k, c) :: m, a => if a = k then m else (k, c) :: dropByte m a

/-- One act of the guest on one byte. -/
def pokeMem (m : Memory) (p : Poke) : Memory :=
  match p.value with
  | some b => setByte m p.addr.toNat b
  | none => dropByte m p.addr.toNat

/-- The `n` bytes from address `a` upward, addresses modulo 2^64 (DESIGN CHOICE at the top of the address space, log
entry 14); `none` if one of them is not accepted. -/
def readBytes (m : Memory) (a : Addr) : Nat → Option (List Byte)
  | 0 => some []
  | n + 1 =>
    match byteAt m a.toNat with
    | none => none
    | some b =>
      match readBytes m (a + 1#64) n with
      | none => none
      | some bs => some (b :: bs)

/-- Store bytes from address `a` upward, addresses modulo 2^64. -/
def writeBytes (m : Memory) (a : Addr) : List Byte → Memory
  | [] => m
  | b :: bs => writeBytes (setByte m a.toNat b) (a + 1#64) bs

/-- Whether the service accepts all of the `n` bytes from `a`. -/
def accepts (m : Memory) (a : Addr) (n : Nat) : Bool := (readBytes m a n).isSome

/-- What a failed write leaves: each of the `n` bytes from `a` that the service holds becomes a free value
(spec/93_implementation_defined.md U19, log entry 5). `k` numbers the free values. -/
def scrambleBytes (m : Memory) (a : Addr) (k : Nat) : Nat → Memory
  | 0 => m
  | n + 1 =>
    match byteAt m a.toNat with
    | none => scrambleBytes m (a + 1#64) (k + 1) n
    | some _ => scrambleBytes (setByte m a.toNat (Config.failedWriteByte k)) (a + 1#64) (k + 1) n

/-! ## The memory port (spec/20_memory.md R62, R63) -/

/-- `MemRead(addr, 16)`: the 16 bytes, or `none` for `Fail`. -/
def memRead (s : State) (a : Addr) : Option (List Byte) :=
  if s.serviceFails then none else readBytes s.mem a Config.recordBytes

/-- `ReadTrb(addr)` (spec/00_scope.md R12). -/
def readTrb (s : State) (a : Addr) : Option Trb := (memRead s a).map Trb.ofBytes

/-- Whether `MemWrite(addr, 16, v)` answers `Ok`. -/
def writeOk (s : State) (a : Addr) : Bool := !s.serviceFails && accepts s.mem a Config.recordBytes

/-- The state after a `WriteTrb(addr, t)` that answered `Ok` (spec/00_scope.md R12). -/
def afterWrite (s : State) (a : Addr) (t : Trb) : State := { s with mem := writeBytes s.mem a t.toBytes }

/-- The state after a `MemWrite` that answered `Fail`: the block's state is as before, the bytes are any value
(spec/60_exceptions.md R317). -/
def afterFailedWrite (s : State) (a : Addr) : State :=
  { s with
    mem := scrambleBytes s.mem a s.freeCount Config.recordBytes
    freeCount := s.freeCount + Config.recordBytes }

/-! ## The set of instances -/

/-- The instance of an identifier. -/
def findInst : Instances → InstId → Option RingInstance
  | [], _ => none
  | (k, r) :: m, id => if id = k then some r else findInst m id

/-- The set with the instance of `id` set; one that was there is replaced (spec/41_consumer_ring.md R181). -/
def putInst : Instances → InstId → RingInstance → Instances
  | [], id, r => [(id, r)]
  | (k, q) :: m, id, r =>
    if id < k then (id, r) :: (k, q) :: m else if id = k then (id, r) :: m else (k, q) :: putInst m id r

/-- Whether an instance is a Consumer Ring. -/
def isConsumer : RingInstance → Bool
  | .consumer _ => true
  | .event _ => false

/-- Whether one more instance of the kind fits the bound, not counting the one `id` names, which is replaced
(`N_CONSUMER`, `N_EVENT`; log entry 9). -/
def roomFor (bound : Option Nat) (consumer : Bool) (m : Instances) (id : InstId) : Bool :=
  match bound with
  | none => true
  | some n => decide ((m.filter fun p => p.1 != id && isConsumer p.2 == consumer).length < n)

/-- The state with a Consumer Ring stored. -/
def putConsumer (s : State) (id : InstId) (c : ConsumerRing) : State :=
  { s with instances := putInst s.instances id (.consumer c) }

/-- The state with an Event Ring stored. -/
def putEvent (s : State) (id : InstId) (r : EventRing) : State :=
  { s with instances := putInst s.instances id (.event r) }

/-! ## Accepting a request, delivering a result -/

/-- One request is outstanding at a time (spec/60_exceptions.md R324; log entry 12). -/
def whenIdle (s : State) (k : Result) : Result :=
  match s.activity with
  | .idle => k
  | .refresh _ _ _ => .refused .busy
  | .dequeue _ _ _ => .refused .busy
  | .readTable _ _ _ _ _ => .refused .busy

/-- A request to the Consumer Ring `id` (spec/60_exceptions.md R320). -/
def onConsumer (s : State) (id : InstId) (k : ConsumerRing → Result) : Result :=
  match findInst s.instances id with
  | some (.consumer c) => k c
  | some (.event _) => .refused (.wrongKind id)
  | none => .refused (.noInstance id)

/-- A request to the Event Ring `id` (spec/60_exceptions.md R320). -/
def onEvent (s : State) (id : InstId) (k : EventRing → Result) : Result :=
  match findInst s.instances id with
  | some (.event r) => k r
  | some (.consumer _) => .refused (.wrongKind id)
  | none => .refused (.noInstance id)

/-- The Consumer Ring of the operation in progress. -/
def ownConsumer (s : State) (id : InstId) (k : ConsumerRing → Result) : Result :=
  match findInst s.instances id with
  | some (.consumer c) => k c
  | some (.event _) => .fault (.lostInstance id)
  | none => .fault (.lostInstance id)

/-- The operation goes on at the next step; its result is not there yet (spec/30_encoding.md R117). -/
def continueWith (s : State) (a : Activity) : Result := .next { s with activity := a, result := none }

/-- The operation ends with a result; the port is free again (spec/30_encoding.md R117). -/
def deliver (s : State) (r : OpResult) : Result := .next { s with activity := .idle, result := some r }

/-- The number of a status (spec/60_exceptions.md R300); it carries no meaning outside the block. -/
def statusCode : OpResult → Nat
  | .ok _ => 0
  | .error (.eMem _) => 1
  | .error .eRingTooLarge => 2
  | .error .eMissingLink => 3
  | .error (.eInvalidSegmentSize _) => 4
  | .error .eEmptySegmentTable => 5
  | .error .eIncomplete => 6
  | .error .eCyclicIncomplete => 7
  | .error (.eSizeMismatch _) => 8
  | .error (.eventRingFull _ _) => 9
  | .error .eSegmentTableTooLarge => 10

/-- The operation ends with status `OK`. -/
def finish (s : State) (p : Payload) : Result := deliver s (.ok p)

/-- `raise E(info)`, this hardware's form of taking an exception (spec/00_scope.md R12, spec/60_exceptions.md R312):
the operation ends at once with the error result, no error is recorded in any instance, and control goes nowhere. The
state passed is the one the operation's failure rule leaves. -/
def raise (s : State) (e : OpError) : Result := deliver s (.error e)

/-- What the return from an exception is here (spec/41_consumer_ring.md R196): the position and the cycle state of the
ring are those at the start of the operation, so that a retry begins at the first TRB of the work item. -/
def rollback (c : ConsumerRing) (g : Gather) : ConsumerRing :=
  { c with dequeueIndex := g.savedIndex, ccs := g.savedCcs }

/-- A reset of the block while it runs (spec/10_state.md R41, spec/70_reset_and_hazards.md R350, R351): every instance is
lost, and with it the operation in progress and its result; guest memory, the rest of the environment and the parameters
are not touched. No step does this: the spec gives a reset no cause (log entry 19). -/
def resetBlock (s : State) : State := { s with instances := [], activity := .idle, result := none }

/-- The environment's turn before a step of the engine (spec/20_memory.md R74). -/
def takeTurn (s : State) : State :=
  match s.turns with
  | [] => { s with serviceFails := false }
  | t :: ts => { s with turns := ts, mem := t.pokes.foldl pokeMem s.mem, serviceFails := t.fails }

end Sys2Proof.Machine
end

