-- ==== Sys2Proof/Machine/Builders.lean ====
section
/-! DEFINITION. The six Event Descriptor Builders (spec/43_event_builders.md): pure, total, one TRB each (R280). -/
namespace Sys2Proof.Machine
open Sys2Proof

/-- A builder's result is the event record; nothing is read or written (R280). -/
def build (s : State) (t : Trb) : Result := whenIdle s (finish s (.event t))

/-- `ev_transfer`, operation code 0x20 (R281). -/
def execEvTransfer (trbPointer length slot endpoint cc : BitVec 64) (s : State) : Result :=
  build s (transferEvent trbPointer length slot endpoint cc)

/-- `ev_command_completion`, operation code 0x21 (R282). -/
def execEvCommandCompletion (cc slot commandAddress : BitVec 64) (s : State) : Result :=
  build s (commandCompletionEvent cc slot commandAddress)

/-- `ev_port_status_change`, operation code 0x22 (R283). -/
def execEvPortStatusChange (port : BitVec 64) (s : State) : Result := build s (portStatusChangeEvent port)

/-- `ev_host_controller`, operation code 0x23 (R284). -/
def execEvHostController (cc : BitVec 64) (s : State) : Result := build s (hostControllerEvent cc)

/-- `ev_device_notification`, operation code 0x24 (R285). -/
def execEvDeviceNotification (slot ntype data : BitVec 64) (s : State) : Result :=
  build s (deviceNotificationEvent slot ntype data)

/-- `ev_mfindex_wrap`, operation code 0x25 (R286). -/
def execEvMfindexWrap (s : State) : Result := build s mfIndexWrapEvent

end Sys2Proof.Machine
end

