-- ==== Sys2Proof/Machine/Descriptors.lean ====
section
/-! DEFINITION. The descriptor constructors and the accessor of spec/41_consumer_ring.md section 6. -/
namespace Sys2Proof.Machine
open Sys2Proof

/-! The three operations run in every idle state, that after reset included (DEDUCED, log entry 11). -/

/-- `cd_from_trbs` (R198): exactly one TRB, of any type. -/
def commandDescriptor : List Trb → Except OpError Descriptor
  | [t] => .ok (.command t)
  | ts => .error (.eSizeMismatch ts.length)

/-- `td_from_trbs` (R199): checks nothing. -/
def transferDescriptor (ts : List Trb) : Descriptor := .transfer ts

/-- `td_transfer_size` (R200): the sum over all TRBs, not reduced modulo anything. -/
def transferSize : List Trb → Nat
  | [] => 0
  | t :: ts => xferLen t + transferSize ts

/-- `cd_from_trbs`, operation code 0x30 (R198). -/
def execCdFromTrbs (trbs : List Trb) (s : State) : Result :=
  whenIdle s <|
    match commandDescriptor trbs with
    | .ok d => finish s (.descriptor d)
    | .error e => raise s e

/-- `td_from_trbs`, operation code 0x31 (R199). -/
def execTdFromTrbs (trbs : List Trb) (s : State) : Result :=
  whenIdle s (finish s (.descriptor (transferDescriptor trbs)))

/-- `td_transfer_size`, operation code 0x32 (R200). -/
def execTdTransferSize (td : List Trb) (s : State) : Result :=
  whenIdle s (finish s (.size (transferSize td)))

end Sys2Proof.Machine
end

