-- ==== Sys2Proof/Machine/EventRing.lean ====
section
/-! DEFINITION. The Event Ring producer (spec/42_event_ring.md). `er_create` and `er_update_segment_table` begin in the
step that takes the request and then read one descriptor a step; the other operations are one step. -/
namespace Sys2Proof.Machine
open Sys2Proof

/-! ## Position (R235, R237) -/

/-- `next_index()` (R235). -/
def nextIndex (r : EventRing) : Nat := if r.segs.length ≤ r.segIndex + 1 then 0 else r.segIndex + 1

/-- `next_slot()` (R235); `none` only when the segment table is empty. -/
def nextSlot (r : EventRing) : Option Addr :=
  if r.remaining = 1 then (r.segs[nextIndex r]?).map Segment.base else some (nextSlotAddr r.enqueuePointer)

/-- The ring after the segment is exhausted (R237): the next segment, or segment 0 with `pcs` flipped. -/
def enterSegment (r : EventRing) : Option EventRing :=
  match r.segs[nextIndex r]? with
  | none => none
  | some g =>
    some { r with
      segIndex := nextIndex r
      enqueuePointer := g.base
      remaining := g.cap
      pcs := pcsAfterSegment (decide (r.segs.length ≤ r.segIndex + 1)) r.pcs }

/-- The ring after one record is written (R237). -/
def advance (r : EventRing) : Option EventRing :=
  if r.remaining - 1 = 0 then enterSegment r
  else some { r with enqueuePointer := nextSlotAddr r.enqueuePointer, remaining := r.remaining - 1 }

/-- `write_advance(t)` (R237, R241): the record is stamped and written at the enqueue pointer, then the position moves
and `done` ends the operation; a failed write raises `E_MEM` and leaves the instance as it was. -/
def writeAdvance (s : State) (r : EventRing) (t : Trb) (done : State → EventRing → Result) : Result :=
  if writeOk s r.enqueuePointer then
    match advance r with
    | none => .fault .noSegment
    | some r' => done (afterWrite s r.enqueuePointer (stamp t r.pcs)) r'
  else raise (afterFailedWrite s r.enqueuePointer) (.eMem r.enqueuePointer)

/-! ## Reading the segment table (R232) -/

/-- The start of `read_table`: the two checks made before any memory access (R232, spec/60_exceptions.md R306). -/
def startTable (s : State) (id : InstId) (purpose : TablePurpose) (erstba : Addr) (erstsz : Nat) : Result :=
  if erstsz = 0 then raise s .eEmptySegmentTable
  else
    match s.params.erstMax with
    | none => continueWith s (.readTable id purpose erstba erstsz [])
    | some m =>
      if m < erstsz then raise s .eSegmentTableTooLarge
      else continueWith s (.readTable id purpose erstba erstsz [])

/-- An Event Ring as created from a validated table (spec/10_state.md R34, R42). -/
def newEvent (segs : List Segment) (first : Segment) (erdp : Addr) : EventRing :=
  ⟨segs, 0, first.cap, first.base, true, some erdp⟩

/-- The table has been read and validated: `er_create` makes the instance (R231), `er_update_segment_table` replaces
`segs` only (R244). -/
def installTable (s : State) (id : InstId) (purpose : TablePurpose) (table : List Segment) : Result :=
  match purpose with
  | .create erdp =>
    match table with
    | [] => .fault .noSegment
    | first :: _ => finish (putEvent s id (newEvent table first erdp)) .nothing
  | .update =>
    match findInst s.instances id with
    | some (.event r) => finish (putEvent s id { r with segs := table }) .nothing
    | some (.consumer _) => .fault (.lostInstance id)
    | none => .fault (.lostInstance id)

/-- All descriptors are read: validation in table order (R232), then the table is installed. -/
def finishTable (s : State) (id : InstId) (purpose : TablePurpose) (table : List Segment) : Result :=
  match firstBadFrom 0 table with
  | some i => raise s (.eInvalidSegmentSize i)
  | none => installTable s id purpose table

/-- One step of `read_table` (R232): read descriptor `i = |raw|`, and after the last one validate and install. -/
def tableStep (s : State) (id : InstId) (purpose : TablePurpose) (erstba : Addr) (erstsz : Nat) (raw : List Segment) :
    Result :=
  match memRead s (descriptorAddr erstba raw.length) with
  | none => raise s (.eMem (descriptorAddr erstba raw.length))
  | some bs =>
    if erstsz ≤ raw.length + 1 then finishTable s id purpose (raw ++ [decodeDescriptor bs])
    else continueWith s (.readTable id purpose erstba erstsz (raw ++ [decodeDescriptor bs]))

/-! ## The operations -/

/-- `er_create`, operation code 0x10 (R231). DESIGN CHOICE (log entry 9): where `N_EVENT` is given and reached, the create is
refused before the checks and reads of `read_table`, one that would end in an error and make no instance included. -/
def execErCreate (id : InstId) (erstba : Addr) (erstsz : Nat) (erdp : Addr) (s : State) : Result :=
  whenIdle s <|
    if roomFor s.params.nEvent false s.instances id then startTable s id (.create erdp) erstba erstsz
    else .refused .tooManyInstances

/-- `er_is_full`, operation code 0x11 (R233, R234). -/
def execErIsFull (id : InstId) (s : State) : Result :=
  whenIdle s <| onEvent s id fun r =>
    match r.dequeuePointer with
    | none => finish s (.full true)
    | some d =>
      match nextSlot r with
      | none => .fault .noSegment
      | some a => finish s (.full (a == d))

/-- `er_enqueue`, operation code 0x12 (R238 to R242): the unknown case, the full case, the write, in this order. -/
def execErEnqueue (id : InstId) (event : Trb) (s : State) : Result :=
  whenIdle s <| onEvent s id fun r =>
    match r.dequeuePointer with
    | none => raise s (.eventRingFull event false)
    | some d =>
      match nextSlot r with
      | none => .fault .noSegment
      | some a =>
        if a = d then
          writeAdvance s r erfTrb fun s' r' =>
            raise (putEvent s' id { r' with dequeuePointer := none }) (.eventRingFull event true)
        else writeAdvance s r event fun s' r' => finish (putEvent s' id r') .accepted

/-- `er_update_dequeue_pointer`, operation code 0x13 (R243). -/
def execErUpdateDequeuePointer (id : InstId) (addr : Addr) (s : State) : Result :=
  whenIdle s <| onEvent s id fun r => finish (putEvent s id { r with dequeuePointer := some addr }) .nothing

/-- `er_update_segment_table`, operation code 0x14 (R244), whether or not the controller is halted (log entry 16). -/
def execErUpdateSegmentTable (id : InstId) (erstba : Addr) (erstsz : Nat) (s : State) : Result :=
  whenIdle s <| onEvent s id fun _ => startTable s id .update erstba erstsz

end Sys2Proof.Machine
end

