-- ==== Sys2Proof/Machine/ConsumerRing.lean ====
section
/-! DEFINITION. The Consumer Ring (spec/41_consumer_ring.md): the five operations, and what the walker does when it is at
a record. `cr_update_from_guest`, `cr_dequeue_trb` and `cr_dequeue_work_item` begin in the step that takes the request
and then handle one record a step; each of those records is decoded and executed as a TRB instruction. -/
namespace Sys2Proof.Machine
open Sys2Proof

/-! ## How a walk ends and goes on -/

/-- The inner `cr_dequeue_trb` returned `None` with the ring at `c` (already stored): the empty slot of R189, the
unusable index of R188 or the full circuit of R191. On its own that is the result; inside `cr_dequeue_work_item` it is
`NoWork` (R194) or the rollback and `E_INCOMPLETE` (R195, R196). -/
def walkEmpty (s : State) (id : InstId) (c : ConsumerRing) (gather : Option Gather) : Result :=
  match gather with
  | none => finish s (.trb none)
  | some g =>
    match g.item with
    | [] => finish s .noWork
    | _ :: _ => raise (putConsumer s id (rollback c g)) .eIncomplete

/-- The work item is complete: the descriptor of the ring's kind (R193, R198, R199). The TRBs are consumed even when
the count is wrong (R198). -/
def completeItem (s : State) (kind : RingKind) (item : List Trb) : Result :=
  match kind with
  | .command =>
    match commandDescriptor item with
    | .ok d => finish s (.item d)
    | .error e => raise s e
  | .transfer => finish s (.item (transferDescriptor item))

/-- The inner `cr_dequeue_trb` returned `Some(t)` with the ring at `c` (already stored), `chain` being `chain(t)`
(R193): the result, or the end of the work item, or the full circuit of R197, or the next inner `cr_dequeue_trb`. -/
def walkReturns (s : State) (id : InstId) (c : ConsumerRing) (gather : Option Gather) (t : Trb) (chain : Bool) :
    Result :=
  match gather with
  | none => finish s (.trb (some t))
  | some g =>
    if chain then
      if c.shadow.length ≤ g.passed + 1 then raise (putConsumer s id (rollback c g)) .eCyclicIncomplete
      else
        continueWith s
          (.dequeue id c.dequeueIndex (some { g with item := g.item ++ [t], passed := g.passed + 1 }))
    else completeItem s c.kind (g.item ++ [t])

/-- The ring after one slot is passed (R189): the index advances by one modulo the shadow length. -/
def advanceIndex (c : ConsumerRing) : ConsumerRing :=
  { c with dequeueIndex := (c.dequeueIndex + 1) % c.shadow.length }

/-- The ring after a Link is passed (R190). -/
def passLink (c : ConsumerRing) (toggle : Bool) : ConsumerRing :=
  { advanceIndex c with ccs := ccsAfterLink toggle c.ccs }

/-- One more slot passed, in the count of R193. -/
def countPassed (gather : Option Gather) : Option Gather := gather.map fun g => { g with passed := g.passed + 1 }

/-- The last-record check and the end of `cr_update_from_guest` (R184, R183): the shadow copy is replaced as a whole. -/
def closeRing (s : State) (id : InstId) (c : ConsumerRing) (gathered : List Trb) : Result :=
  match gathered.getLast? with
  | some t =>
    if t.isLink then finish (putConsumer s id { c with shadow := gathered }) .nothing else raise s .eMissingLink
  | none => raise s .eMissingLink

/-! ## What a record does to the operation that is at it (spec/40_trb_types.md R140) -/

/-- A data record `t` (any type but Link), `chain` being its chain bit where its type has one. A refresh copies it
whatever its cycle bit and reads on (R183, R185); a walk returns it if its cycle bit matches (R189). -/
def atData (t : Trb) (chain : Bool) (s : State) : Result :=
  match s.activity with
  | .refresh id gathered addr => continueWith s (.refresh id (gathered ++ [t]) (nextSlotAddr addr))
  | .dequeue id _ gather =>
    ownConsumer s id fun c =>
      if available t c.ccs then
        walkReturns (putConsumer s id (advanceIndex c)) id (advanceIndex c) gather t chain
      else walkEmpty s id c gather
  | .idle => .refused .noRecordAtHand
  | .readTable _ _ _ _ _ => .refused .noRecordAtHand

/-- A Link record (spec/40_trb_types.md R146). A refresh copies it whatever its cycle bit and follows it, and ends when
its target is the ring's base; a walk passes it if its cycle bit matches, never returns it, and stops at the full
circuit (R191). -/
def atLink (t : Trb) (toggle : Bool) (s : State) : Result :=
  match s.activity with
  | .refresh id gathered _ =>
    ownConsumer s id fun c =>
      if linkTarget t.parameter = c.base then closeRing s id c (gathered ++ [t])
      else continueWith s (.refresh id (gathered ++ [t]) (linkTarget t.parameter))
  | .dequeue id start gather =>
    ownConsumer s id fun c =>
      if available t c.ccs then
        if (passLink c toggle).dequeueIndex = start then
          walkEmpty (putConsumer s id (passLink c toggle)) id (passLink c toggle) gather
        else continueWith (putConsumer s id (passLink c toggle)) (.dequeue id start (countPassed gather))
      else walkEmpty s id c gather
  | .idle => .refused .noRecordAtHand
  | .readTable _ _ _ _ _ => .refused .noRecordAtHand

/-! ## The operations -/

/-- A Consumer Ring as created (spec/10_state.md R27, R42; `ccs` = 1 is PRESUMED by the spec, log entry 17). -/
def newConsumer (kind : RingKind) (base : Addr) : ConsumerRing := ⟨kind, base, [], 0, true⟩

/-- `cr_create`, operation code 0x01 (R181); refused where `N_CONSUMER` is given and reached (DESIGN CHOICE, log
entry 9). -/
def execCrCreate (id : InstId) (kind : RingKind) (base : Addr) (s : State) : Result :=
  whenIdle s <|
    if roomFor s.params.nConsumer true s.instances id then
      finish (putConsumer s id (newConsumer kind base)) .nothing
    else .refused .tooManyInstances

/-- `cr_update_from_guest`, operation code 0x02 (R183): `new <- []`, `addr <- base`; then one record a step. -/
def execCrUpdateFromGuest (id : InstId) (s : State) : Result :=
  whenIdle s <| onConsumer s id fun c => continueWith s (.refresh id [] c.base)

/-- `cr_reset`, operation code 0x03 (R186). -/
def execCrReset (id : InstId) (pointer : Addr) (s : State) : Result :=
  whenIdle s <| onConsumer s id fun c =>
    finish (putConsumer s id { c with dequeueIndex := resetIndex c.base pointer }) .nothing

/-- `cr_dequeue_trb`, operation code 0x04 (R188, R189): an unusable index is `None` at once; otherwise `start` is the
present index, and then one slot a step. -/
def execCrDequeueTrb (id : InstId) (s : State) : Result :=
  whenIdle s <| onConsumer s id fun c =>
    if c.dequeueIndex < c.shadow.length then continueWith s (.dequeue id c.dequeueIndex none)
    else walkEmpty s id c none

/-- The local variables of `cr_dequeue_work_item` at its start (R193). -/
def startGather (c : ConsumerRing) : Gather := ⟨c.dequeueIndex, c.ccs, [], 0⟩

/-- `cr_dequeue_work_item`, operation code 0x05 (R193). -/
def execCrDequeueWorkItem (id : InstId) (s : State) : Result :=
  whenIdle s <| onConsumer s id fun c =>
    if c.dequeueIndex < c.shadow.length then
      continueWith s (.dequeue id c.dequeueIndex (some (startGather c)))
    else walkEmpty s id c (some (startGather c))

end Sys2Proof.Machine
end

