-- ==== Sys2Proof/Machine/TrbTypes.lean ====
section
/-! DEFINITION. One meaning per TRB type (spec/40_trb_types.md): what the walker does at a record of that type. The
transfer class passes its chain bit on, Link has its own rule, and every other type is a data record without a chain
bit. -/
namespace Sys2Proof.Machine
open Sys2Proof

/-- Reserved0 (spec/40_trb_types.md R156). -/
def execReserved0 (t : PlainTrb) (s : State) : Result := atData (t.toTrb 0#6) false s

/-- Normal (spec/40_trb_types.md R141). -/
def execNormal (t : TransferTrb) (s : State) : Result := atData (t.toTrb 1#6) t.chain s

/-- SetupStage (spec/40_trb_types.md R142). -/
def execSetupStage (t : TransferTrb) (s : State) : Result := atData (t.toTrb 2#6) t.chain s

/-- DataStage (spec/40_trb_types.md R143). -/
def execDataStage (t : TransferTrb) (s : State) : Result := atData (t.toTrb 3#6) t.chain s

/-- StatusStage (spec/40_trb_types.md R144). -/
def execStatusStage (t : TransferTrb) (s : State) : Result := atData (t.toTrb 4#6) t.chain s

/-- Isoch (spec/40_trb_types.md R145). -/
def execIsoch (t : TransferTrb) (s : State) : Result := atData (t.toTrb 5#6) t.chain s

/-- Link (spec/40_trb_types.md R146). -/
def execLink (t : LinkTrb) (s : State) : Result := atLink (t.toTrb 6#6) t.toggleCycle s

/-- EventData (spec/40_trb_types.md R147). -/
def execEventData (t : PlainTrb) (s : State) : Result := atData (t.toTrb 7#6) false s

/-- NoOp (spec/40_trb_types.md R156). -/
def execNoOp (t : PlainTrb) (s : State) : Result := atData (t.toTrb 8#6) false s

/-- EnableSlotCmd (spec/40_trb_types.md R148). -/
def execEnableSlotCmd (t : PlainTrb) (s : State) : Result := atData (t.toTrb 9#6) false s

/-- DisableSlotCmd (spec/40_trb_types.md R155). -/
def execDisableSlotCmd (t : PlainTrb) (s : State) : Result := atData (t.toTrb 10#6) false s

/-- AddressDeviceCmd (spec/40_trb_types.md R155). -/
def execAddressDeviceCmd (t : PlainTrb) (s : State) : Result := atData (t.toTrb 11#6) false s

/-- ConfigureEndpointCmd (spec/40_trb_types.md R149). -/
def execConfigureEndpointCmd (t : PlainTrb) (s : State) : Result := atData (t.toTrb 12#6) false s

/-- EvaluateContextCmd (spec/40_trb_types.md R155). -/
def execEvaluateContextCmd (t : PlainTrb) (s : State) : Result := atData (t.toTrb 13#6) false s

/-- ResetEndpointCmd (spec/40_trb_types.md R155). -/
def execResetEndpointCmd (t : PlainTrb) (s : State) : Result := atData (t.toTrb 14#6) false s

/-- StopEndpointCmd (spec/40_trb_types.md R155). -/
def execStopEndpointCmd (t : PlainTrb) (s : State) : Result := atData (t.toTrb 15#6) false s

/-- SetTrDequeuePointerCmd (spec/40_trb_types.md R155). -/
def execSetTrDequeuePointerCmd (t : PlainTrb) (s : State) : Result := atData (t.toTrb 16#6) false s

/-- ResetDeviceCmd (spec/40_trb_types.md R155). -/
def execResetDeviceCmd (t : PlainTrb) (s : State) : Result := atData (t.toTrb 17#6) false s

/-- ForceEventCmd (spec/40_trb_types.md R155). -/
def execForceEventCmd (t : PlainTrb) (s : State) : Result := atData (t.toTrb 18#6) false s

/-- NegotiateBandwidthCmd (spec/40_trb_types.md R155). -/
def execNegotiateBandwidthCmd (t : PlainTrb) (s : State) : Result := atData (t.toTrb 19#6) false s

/-- SetLatencyToleranceValueCmd (spec/40_trb_types.md R155). -/
def execSetLatencyToleranceValueCmd (t : PlainTrb) (s : State) : Result := atData (t.toTrb 20#6) false s

/-- GetPortBandwidthCmd (spec/40_trb_types.md R155). -/
def execGetPortBandwidthCmd (t : PlainTrb) (s : State) : Result := atData (t.toTrb 21#6) false s

/-- ForceHeaderCmd (spec/40_trb_types.md R155). -/
def execForceHeaderCmd (t : PlainTrb) (s : State) : Result := atData (t.toTrb 22#6) false s

/-- NoOpCmd (spec/40_trb_types.md R155). -/
def execNoOpCmd (t : PlainTrb) (s : State) : Result := atData (t.toTrb 23#6) false s

/-- GetExtendedPropertyCmd (spec/40_trb_types.md R155). -/
def execGetExtendedPropertyCmd (t : PlainTrb) (s : State) : Result := atData (t.toTrb 24#6) false s

/-- SetExtendedPropertyCmd (spec/40_trb_types.md R155). -/
def execSetExtendedPropertyCmd (t : PlainTrb) (s : State) : Result := atData (t.toTrb 25#6) false s

/-- Reserved26 (spec/40_trb_types.md R156). -/
def execReserved26 (t : PlainTrb) (s : State) : Result := atData (t.toTrb 26#6) false s

/-- Reserved27 (spec/40_trb_types.md R156). -/
def execReserved27 (t : PlainTrb) (s : State) : Result := atData (t.toTrb 27#6) false s

/-- Reserved28 (spec/40_trb_types.md R156). -/
def execReserved28 (t : PlainTrb) (s : State) : Result := atData (t.toTrb 28#6) false s

/-- Reserved29 (spec/40_trb_types.md R156). -/
def execReserved29 (t : PlainTrb) (s : State) : Result := atData (t.toTrb 29#6) false s

/-- Reserved30 (spec/40_trb_types.md R156). -/
def execReserved30 (t : PlainTrb) (s : State) : Result := atData (t.toTrb 30#6) false s

/-- Reserved31 (spec/40_trb_types.md R156). -/
def execReserved31 (t : PlainTrb) (s : State) : Result := atData (t.toTrb 31#6) false s

/-- TransferEvent (spec/40_trb_types.md R150). -/
def execTransferEvent (t : PlainTrb) (s : State) : Result := atData (t.toTrb 32#6) false s

/-- CommandCompletionEvent (spec/40_trb_types.md R151). -/
def execCommandCompletionEvent (t : PlainTrb) (s : State) : Result := atData (t.toTrb 33#6) false s

/-- PortStatusChangeEvent (spec/40_trb_types.md R152). -/
def execPortStatusChangeEvent (t : PlainTrb) (s : State) : Result := atData (t.toTrb 34#6) false s

/-- BandwidthRequestEvent (spec/40_trb_types.md R156). -/
def execBandwidthRequestEvent (t : PlainTrb) (s : State) : Result := atData (t.toTrb 35#6) false s

/-- DoorbellEvent (spec/40_trb_types.md R156). -/
def execDoorbellEvent (t : PlainTrb) (s : State) : Result := atData (t.toTrb 36#6) false s

/-- HostControllerEvent (spec/40_trb_types.md R153). -/
def execHostControllerEvent (t : PlainTrb) (s : State) : Result := atData (t.toTrb 37#6) false s

/-- DeviceNotificationEvent (spec/40_trb_types.md R154). -/
def execDeviceNotificationEvent (t : PlainTrb) (s : State) : Result := atData (t.toTrb 38#6) false s

/-- MfIndexWrapEvent (spec/40_trb_types.md R157). -/
def execMfIndexWrapEvent (t : PlainTrb) (s : State) : Result := atData (t.toTrb 39#6) false s

/-- Reserved40 (spec/40_trb_types.md R156). -/
def execReserved40 (t : PlainTrb) (s : State) : Result := atData (t.toTrb 40#6) false s

/-- Reserved41 (spec/40_trb_types.md R156). -/
def execReserved41 (t : PlainTrb) (s : State) : Result := atData (t.toTrb 41#6) false s

/-- Reserved42 (spec/40_trb_types.md R156). -/
def execReserved42 (t : PlainTrb) (s : State) : Result := atData (t.toTrb 42#6) false s

/-- Reserved43 (spec/40_trb_types.md R156). -/
def execReserved43 (t : PlainTrb) (s : State) : Result := atData (t.toTrb 43#6) false s

/-- Reserved44 (spec/40_trb_types.md R156). -/
def execReserved44 (t : PlainTrb) (s : State) : Result := atData (t.toTrb 44#6) false s

/-- Reserved45 (spec/40_trb_types.md R156). -/
def execReserved45 (t : PlainTrb) (s : State) : Result := atData (t.toTrb 45#6) false s

/-- Reserved46 (spec/40_trb_types.md R156). -/
def execReserved46 (t : PlainTrb) (s : State) : Result := atData (t.toTrb 46#6) false s

/-- Reserved47 (spec/40_trb_types.md R156). -/
def execReserved47 (t : PlainTrb) (s : State) : Result := atData (t.toTrb 47#6) false s

/-- Reserved48 (spec/40_trb_types.md R156). -/
def execReserved48 (t : PlainTrb) (s : State) : Result := atData (t.toTrb 48#6) false s

/-- Reserved49 (spec/40_trb_types.md R156). -/
def execReserved49 (t : PlainTrb) (s : State) : Result := atData (t.toTrb 49#6) false s

/-- Reserved50 (spec/40_trb_types.md R156). -/
def execReserved50 (t : PlainTrb) (s : State) : Result := atData (t.toTrb 50#6) false s

/-- Reserved51 (spec/40_trb_types.md R156). -/
def execReserved51 (t : PlainTrb) (s : State) : Result := atData (t.toTrb 51#6) false s

/-- Reserved52 (spec/40_trb_types.md R156). -/
def execReserved52 (t : PlainTrb) (s : State) : Result := atData (t.toTrb 52#6) false s

/-- Reserved53 (spec/40_trb_types.md R156). -/
def execReserved53 (t : PlainTrb) (s : State) : Result := atData (t.toTrb 53#6) false s

/-- Reserved54 (spec/40_trb_types.md R156). -/
def execReserved54 (t : PlainTrb) (s : State) : Result := atData (t.toTrb 54#6) false s

/-- Reserved55 (spec/40_trb_types.md R156). -/
def execReserved55 (t : PlainTrb) (s : State) : Result := atData (t.toTrb 55#6) false s

/-- Reserved56 (spec/40_trb_types.md R156). -/
def execReserved56 (t : PlainTrb) (s : State) : Result := atData (t.toTrb 56#6) false s

/-- Reserved57 (spec/40_trb_types.md R156). -/
def execReserved57 (t : PlainTrb) (s : State) : Result := atData (t.toTrb 57#6) false s

/-- Reserved58 (spec/40_trb_types.md R156). -/
def execReserved58 (t : PlainTrb) (s : State) : Result := atData (t.toTrb 58#6) false s

/-- Reserved59 (spec/40_trb_types.md R156). -/
def execReserved59 (t : PlainTrb) (s : State) : Result := atData (t.toTrb 59#6) false s

/-- Reserved60 (spec/40_trb_types.md R156). -/
def execReserved60 (t : PlainTrb) (s : State) : Result := atData (t.toTrb 60#6) false s

/-- Reserved61 (spec/40_trb_types.md R156). -/
def execReserved61 (t : PlainTrb) (s : State) : Result := atData (t.toTrb 61#6) false s

/-- Reserved62 (spec/40_trb_types.md R156). -/
def execReserved62 (t : PlainTrb) (s : State) : Result := atData (t.toTrb 62#6) false s

/-- Reserved63 (spec/40_trb_types.md R156). -/
def execReserved63 (t : PlainTrb) (s : State) : Result := atData (t.toTrb 63#6) false s

end Sys2Proof.Machine
end

