-- ==== Sys2Proof/Machine/Dispatch.lean ====
section
/-! DEFINITION. One arm per constructor of Instr. -/
namespace Sys2Proof.Machine
open Sys2Proof

def exec (i : Instr) (s : State) : Host.Outcome State Fault Refusal :=
  match i with
  | .reserved0 t => Sys2Proof.Machine.execReserved0 t s
  | .normal t => Sys2Proof.Machine.execNormal t s
  | .setupStage t => Sys2Proof.Machine.execSetupStage t s
  | .dataStage t => Sys2Proof.Machine.execDataStage t s
  | .statusStage t => Sys2Proof.Machine.execStatusStage t s
  | .isoch t => Sys2Proof.Machine.execIsoch t s
  | .link t => Sys2Proof.Machine.execLink t s
  | .eventData t => Sys2Proof.Machine.execEventData t s
  | .noOp t => Sys2Proof.Machine.execNoOp t s
  | .enableSlotCmd t => Sys2Proof.Machine.execEnableSlotCmd t s
  | .disableSlotCmd t => Sys2Proof.Machine.execDisableSlotCmd t s
  | .addressDeviceCmd t => Sys2Proof.Machine.execAddressDeviceCmd t s
  | .configureEndpointCmd t => Sys2Proof.Machine.execConfigureEndpointCmd t s
  | .evaluateContextCmd t => Sys2Proof.Machine.execEvaluateContextCmd t s
  | .resetEndpointCmd t => Sys2Proof.Machine.execResetEndpointCmd t s
  | .stopEndpointCmd t => Sys2Proof.Machine.execStopEndpointCmd t s
  | .setTrDequeuePointerCmd t => Sys2Proof.Machine.execSetTrDequeuePointerCmd t s
  | .resetDeviceCmd t => Sys2Proof.Machine.execResetDeviceCmd t s
  | .forceEventCmd t => Sys2Proof.Machine.execForceEventCmd t s
  | .negotiateBandwidthCmd t => Sys2Proof.Machine.execNegotiateBandwidthCmd t s
  | .setLatencyToleranceValueCmd t => Sys2Proof.Machine.execSetLatencyToleranceValueCmd t s
  | .getPortBandwidthCmd t => Sys2Proof.Machine.execGetPortBandwidthCmd t s
  | .forceHeaderCmd t => Sys2Proof.Machine.execForceHeaderCmd t s
  | .noOpCmd t => Sys2Proof.Machine.execNoOpCmd t s
  | .getExtendedPropertyCmd t => Sys2Proof.Machine.execGetExtendedPropertyCmd t s
  | .setExtendedPropertyCmd t => Sys2Proof.Machine.execSetExtendedPropertyCmd t s
  | .reserved26 t => Sys2Proof.Machine.execReserved26 t s
  | .reserved27 t => Sys2Proof.Machine.execReserved27 t s
  | .reserved28 t => Sys2Proof.Machine.execReserved28 t s
  | .reserved29 t => Sys2Proof.Machine.execReserved29 t s
  | .reserved30 t => Sys2Proof.Machine.execReserved30 t s
  | .reserved31 t => Sys2Proof.Machine.execReserved31 t s
  | .transferEvent t => Sys2Proof.Machine.execTransferEvent t s
  | .commandCompletionEvent t => Sys2Proof.Machine.execCommandCompletionEvent t s
  | .portStatusChangeEvent t => Sys2Proof.Machine.execPortStatusChangeEvent t s
  | .bandwidthRequestEvent t => Sys2Proof.Machine.execBandwidthRequestEvent t s
  | .doorbellEvent t => Sys2Proof.Machine.execDoorbellEvent t s
  | .hostControllerEvent t => Sys2Proof.Machine.execHostControllerEvent t s
  | .deviceNotificationEvent t => Sys2Proof.Machine.execDeviceNotificationEvent t s
  | .mfIndexWrapEvent t => Sys2Proof.Machine.execMfIndexWrapEvent t s
  | .reserved40 t => Sys2Proof.Machine.execReserved40 t s
  | .reserved41 t => Sys2Proof.Machine.execReserved41 t s
  | .reserved42 t => Sys2Proof.Machine.execReserved42 t s
  | .reserved43 t => Sys2Proof.Machine.execReserved43 t s
  | .reserved44 t => Sys2Proof.Machine.execReserved44 t s
  | .reserved45 t => Sys2Proof.Machine.execReserved45 t s
  | .reserved46 t => Sys2Proof.Machine.execReserved46 t s
  | .reserved47 t => Sys2Proof.Machine.execReserved47 t s
  | .reserved48 t => Sys2Proof.Machine.execReserved48 t s
  | .reserved49 t => Sys2Proof.Machine.execReserved49 t s
  | .reserved50 t => Sys2Proof.Machine.execReserved50 t s
  | .reserved51 t => Sys2Proof.Machine.execReserved51 t s
  | .reserved52 t => Sys2Proof.Machine.execReserved52 t s
  | .reserved53 t => Sys2Proof.Machine.execReserved53 t s
  | .reserved54 t => Sys2Proof.Machine.execReserved54 t s
  | .reserved55 t => Sys2Proof.Machine.execReserved55 t s
  | .reserved56 t => Sys2Proof.Machine.execReserved56 t s
  | .reserved57 t => Sys2Proof.Machine.execReserved57 t s
  | .reserved58 t => Sys2Proof.Machine.execReserved58 t s
  | .reserved59 t => Sys2Proof.Machine.execReserved59 t s
  | .reserved60 t => Sys2Proof.Machine.execReserved60 t s
  | .reserved61 t => Sys2Proof.Machine.execReserved61 t s
  | .reserved62 t => Sys2Proof.Machine.execReserved62 t s
  | .reserved63 t => Sys2Proof.Machine.execReserved63 t s
  | .crCreate id kind base => Sys2Proof.Machine.execCrCreate id kind base s
  | .crUpdateFromGuest id => Sys2Proof.Machine.execCrUpdateFromGuest id s
  | .crReset id pointer => Sys2Proof.Machine.execCrReset id pointer s
  | .crDequeueTrb id => Sys2Proof.Machine.execCrDequeueTrb id s
  | .crDequeueWorkItem id => Sys2Proof.Machine.execCrDequeueWorkItem id s
  | .erCreate id erstba erstsz erdp => Sys2Proof.Machine.execErCreate id erstba erstsz erdp s
  | .erIsFull id => Sys2Proof.Machine.execErIsFull id s
  | .erEnqueue id event => Sys2Proof.Machine.execErEnqueue id event s
  | .erUpdateDequeuePointer id addr => Sys2Proof.Machine.execErUpdateDequeuePointer id addr s
  | .erUpdateSegmentTable id erstba erstsz => Sys2Proof.Machine.execErUpdateSegmentTable id erstba erstsz s
  | .evTransfer trbPointer length slot endpoint cc => Sys2Proof.Machine.execEvTransfer trbPointer length slot endpoint cc s
  | .evCommandCompletion cc slot commandAddress => Sys2Proof.Machine.execEvCommandCompletion cc slot commandAddress s
  | .evPortStatusChange port => Sys2Proof.Machine.execEvPortStatusChange port s
  | .evHostController cc => Sys2Proof.Machine.execEvHostController cc s
  | .evDeviceNotification slot ntype data => Sys2Proof.Machine.execEvDeviceNotification slot ntype data s
  | .evMfindexWrap => Sys2Proof.Machine.execEvMfindexWrap s
  | .cdFromTrbs trbs => Sys2Proof.Machine.execCdFromTrbs trbs s
  | .tdFromTrbs trbs => Sys2Proof.Machine.execTdFromTrbs trbs s
  | .tdTransferSize td => Sys2Proof.Machine.execTdTransferSize td s

end Sys2Proof.Machine
end

