-- ==== Sys2Proof/Machine/Fetch.lean ====
section
/-! DEFINITION. What the engine does next: the request or the record it decodes, or the step that decodes nothing. -/
namespace Sys2Proof.Machine
open Sys2Proof

/-- The next thing to do: an instruction to execute at a state, or an outcome reached without one. -/
inductive Fetched where
  | run (i : Instr) (s : State)
  | done (r : Result)

/-- Idle: the next request of the operation port; with none, the engine makes no move (spec/60_exceptions.md R322;
log entry 8). -/
def fetchRequest (s : State) : Fetched :=
  match s.requests with
  | [] => .done (.next s)
  | bs :: rest =>
    match decode .port bs with
    | .ok i => .run i { s with requests := rest }
    | .error e => .done (.refused (.badRequest e))

/-- In `cr_update_from_guest`: the bound, then the read of the next record (spec/41_consumer_ring.md R182, R183; the test
is DEDUCED, log entry 13). -/
def fetchFromMemory (s : State) (gathered : List Trb) (addr : Addr) : Fetched :=
  if s.params.maxRingTrbs ≤ gathered.length then .done (raise s .eRingTooLarge)
  else
    match readTrb s addr with
    | none => .done (raise s (.eMem addr))
    | some t => .run (decodeTrb t) s

/-- In a walk: the slot of the shadow copy at the dequeue index (spec/41_consumer_ring.md R188, R189). -/
def fetchFromShadow (s : State) (id : InstId) (gather : Option Gather) : Fetched :=
  match findInst s.instances id with
  | some (.consumer c) =>
    match c.shadow[c.dequeueIndex]? with
    | some t => .run (decodeTrb t) s
    | none => .done (walkEmpty s id c gather)
  | some (.event _) => .done (.fault (.lostInstance id))
  | none => .done (.fault (.lostInstance id))

/-- What the engine does next, by the operation in progress. -/
def fetch (s : State) : Fetched :=
  match s.activity with
  | .idle => fetchRequest s
  | .refresh _ gathered addr => fetchFromMemory s gathered addr
  | .dequeue id _ gather => fetchFromShadow s id gather
  | .readTable id purpose erstba erstsz raw => .done (tableStep s id purpose erstba erstsz raw)

/-- `s` with the record `t` where a walk examines its next slot: a Transfer Ring 0 whose shadow copy is this one record,
whose cycle state is the record's cycle bit, and a `cr_dequeue_trb` in progress on it (log entry 7). -/
def withRecord (s : State) (t : Trb) : State :=
  { s with
    activity := .dequeue 0 0 none
    instances := putInst s.instances 0 (.consumer ⟨.transfer, 0#64, [t], 0, t.cycle⟩) }

/-- `s` with a Consumer Ring 0 for a request to name: the one it has, else one as `cr_create` leaves it. -/
def withConsumerRing (s : State) : State :=
  match findInst s.instances 0 with
  | some (.consumer _) => s
  | some (.event _) => putConsumer s 0 (newConsumer .command 0#64)
  | none => putConsumer s 0 (newConsumer .command 0#64)

/-- `s` with an Event Ring 0 for a request to name: the one it has, else one as `er_create` leaves it from a table of
one segment of 16 slots. -/
def withEventRing (s : State) : State :=
  match findInst s.instances 0 with
  | some (.event _) => s
  | some (.consumer _) => putEvent s 0 (newEvent [⟨0#64, 16⟩] ⟨0#64, 16⟩ 0#64)
  | none => putEvent s 0 (newEvent [⟨0#64, 16⟩] ⟨0#64, 16⟩ 0#64)

/-- `s` with the instance 0 that a request with this operation code and zero operands acts on (log entry 7). -/
def withTarget (s : State) (code : Nat) : State :=
  if 2 ≤ code ∧ code ≤ 5 then withConsumerRing s else if 17 ≤ code ∧ code ≤ 20 then withEventRing s else s

/-- `s` with the bytes of a request where the idle engine takes its next request. -/
def withRequest (s : State) (bs : List Byte) : State := { s with activity := .idle, requests := bs :: s.requests }

end Sys2Proof.Machine
end

