-- ==== Sys2Proof/Machine/Step.lean ====
section
/-! DEFINITION. One step: the environment's turn, then the engine executes the instruction it fetches. -/
namespace Sys2Proof.Machine
open Sys2Proof

/-- One step of the machine. Each step makes at most one access to guest memory, and the guest's writes of the turn
stand before it, so that the guest may write between any two accesses of an operation (spec/20_memory.md R74, R78;
DESIGN CHOICE, log entry 1). -/
def step (s : State) : Host.Outcome State Fault Refusal :=
  match fetch (takeTurn s) with
  | .run i s' => exec i s'
  | .done r => r

/-- `s` with the instruction of an opcode-table word where the next step fetches it: a TRB row where a walk examines its
next slot, an operation row as the next request, with an instance for it to act on (log entry 7). -/
def State.withFetchWord (s : State) (nbits w : Nat) : State :=
  match decodeTableWord nbits w with
  | none => withRequest s [BitVec.ofNat 8 w]
  | some i =>
    match i.trb? with
    | some t => withRecord s t
    | none => withRequest (withTarget s w) (encode i)

end Sys2Proof.Machine
end

