-- ==== Sys2Proof/Safety.lean ====
section
/-! DEFINITION. The terms claims use: the invariant of the machine, the work an operation in progress has left, which
instance an instruction concerns, and the pseudocode of the spec's multi-step operations as functions of one ring. -/
namespace Sys2Proof.Machine
open Sys2Proof

/-! ## The invariant -/

/-- The records before the last do not close the ring at `base` and the last does (spec/41_consumer_ring.md R185(c)). -/
def closedBy (base : Addr) (l : List Trb) : Bool :=
  l.dropLast.all (fun t => !closesRing base t) && l.getLast?.any (closesRing base)

/-- A Consumer Ring between operations: the index is below 2^60 (spec/10_state.md R25), the shadow copy is within the
bound and is empty or a closed ring. -/
def ConsumerRing.ok (p : Params) (c : ConsumerRing) : Prop :=
  c.dequeueIndex < 2 ^ 60 ∧ c.shadow.length ≤ p.maxRingTrbs ∧ (c.shadow = [] ∨ closedBy c.base c.shadow = true)

/-- An Event Ring between operations: at least one segment, every capacity in range (spec/10_state.md R28), `remaining`
from 1 to 4096 (R30). -/
def EventRing.ok (r : EventRing) : Prop :=
  r.segs ≠ [] ∧ (∀ g ∈ r.segs, capValid g = true) ∧ 1 ≤ r.remaining ∧ r.remaining ≤ Config.segMax

/-- An instance between operations. -/
def RingInstance.ok (p : Params) : RingInstance → Prop
  | .consumer c => c.ok p
  | .event r => r.ok

/-- Slots a walk that started at `start` has still to examine before the full circuit (spec/41_consumer_ring.md R191). -/
def slotsLeft (length start index : Nat) : Nat :=
  if index = start then length else (start + length - index) % length

/-- What has been gathered fits the slots passed (spec/41_consumer_ring.md R193, R197): data TRBs with their chain bits
set, none of them twice. -/
def Gather.ok (g : Gather) (c : ConsumerRing) (start : Nat) : Prop :=
  g.savedIndex < c.shadow.length ∧
  (∀ t ∈ g.item, t.isLink = false ∧ chainOf t = true) ∧
  g.item.length + c.shadow.length ≤ g.passed + slotsLeft c.shadow.length start c.dequeueIndex ∧
  g.passed + slotsLeft c.shadow.length start c.dequeueIndex < 2 * c.shadow.length

/-- The operation in progress concerns an instance of its kind and its local variables are in range. -/
def Activity.ok (s : State) : Activity → Prop
  | .idle => True
  | .refresh id gathered _ =>
    ∃ c, findInst s.instances id = some (.consumer c) ∧ gathered.length ≤ s.params.maxRingTrbs ∧
      gathered.all (fun t => !closesRing c.base t) = true
  | .dequeue id start gather =>
    ∃ c, findInst s.instances id = some (.consumer c) ∧ c.dequeueIndex < c.shadow.length ∧
      start < c.shadow.length ∧ ∀ g, gather = some g → g.ok c start
  | .readTable id purpose _ erstsz raw =>
    raw.length < erstsz ∧ (purpose = .update → ∃ r, findInst s.instances id = some (.event r))

/-- The invariant every step keeps. The first clause bounds the parameter, so that an index of the shadow copy is below
2^60; memory and the set of instances are in canonical form. -/
structure Inv (s : State) : Prop where
  bound : s.params.maxRingTrbs ≤ 2 ^ 60
  memory : s.mem.wf
  keys : s.instances.wf
  instances : ∀ p ∈ s.instances, p.2.ok s.params
  activity : s.activity.ok s

/-! ## Frames and runs -/

/-- The parameters and everything of the environment but guest memory are the same: no operation writes them. -/
def sameEnvironment (s t : State) : Prop :=
  t.params = s.params ∧ t.requests = s.requests ∧ t.turns = s.turns ∧ t.serviceFails = s.serviceFails

/-- Every byte of guest memory reads as before. -/
def memoryKept (s t : State) : Prop := (∀ a, byteAt t.mem a = byteAt s.mem a) ∧ t.freeCount = s.freeCount

/-- Every byte of guest memory outside the record at `a` reads as before. -/
def memoryKeptOutside (a : Addr) (s t : State) : Prop :=
  ∀ x, (∀ k < 16, x ≠ (a + BitVec.ofNat 64 k).toNat) → byteAt t.mem x = byteAt s.mem x

/-- Every instance but `id` is as before (spec/10_state.md R20). -/
def othersKept (id : InstId) (s t : State) : Prop :=
  ∀ id', id' ≠ id → findInst t.instances id' = findInst s.instances id'

/-- The operation is over with result `r`. -/
def delivered (t : State) (r : OpResult) : Prop := t.activity = .idle ∧ t.result = some r

/-- The operation has its next step to come, with these local variables. -/
def underway (t : State) (a : Activity) : Prop := t.activity = a ∧ t.result = none

/-- The step at `s` takes the request `i` off the port (spec/60_exceptions.md R324; StepRunsDecodedInstruction says that it
executes it). -/
def requestTaken (s : State) (i : Instr) : Prop :=
  s.activity = .idle ∧ ∃ bs rest, s.requests = bs :: rest ∧ decode .port bs = .ok i

/-- `n` steps. -/
def runSteps : Nat → State → Result
  | 0, s => .next s
  | n + 1, s =>
    match step s with
    | .next t => runSteps n t
    | .fault r => .fault r
    | .refused r => .refused r

/-! ## The work left (spec/60_exceptions.md R301) -/

/-- A bound on the steps the operation in progress still takes. -/
def workLeft (s : State) : Nat :=
  match s.activity with
  | .idle => 0
  | .refresh _ gathered _ => s.params.maxRingTrbs - gathered.length + 1
  | .dequeue id start gather =>
    match findInst s.instances id with
    | some (.consumer c) =>
      match gather with
      | none => slotsLeft c.shadow.length start c.dequeueIndex
      | some g => 2 * c.shadow.length - g.passed
    | some (.event _) => 0
    | none => 0
  | .readTable _ _ _ erstsz raw => erstsz - raw.length

/-! ## Which instance is concerned (spec/10_state.md R20) -/

/-- The instance the operation in progress concerns. -/
def Activity.instId : Activity → Option InstId
  | .idle => none
  | .refresh id _ _ => some id
  | .dequeue id _ _ => some id
  | .readTable id _ _ _ _ => some id

end Sys2Proof.Machine

namespace Sys2Proof

/-- The instance a request names; a record names none (spec/30_encoding.md R117). -/
def Instr.instId : Instr → Option InstId
  | .reserved0 _ => none
  | .normal _ => none
  | .setupStage _ => none
  | .dataStage _ => none
  | .statusStage _ => none
  | .isoch _ => none
  | .link _ => none
  | .eventData _ => none
  | .noOp _ => none
  | .enableSlotCmd _ => none
  | .disableSlotCmd _ => none
  | .addressDeviceCmd _ => none
  | .configureEndpointCmd _ => none
  | .evaluateContextCmd _ => none
  | .resetEndpointCmd _ => none
  | .stopEndpointCmd _ => none
  | .setTrDequeuePointerCmd _ => none
  | .resetDeviceCmd _ => none
  | .forceEventCmd _ => none
  | .negotiateBandwidthCmd _ => none
  | .setLatencyToleranceValueCmd _ => none
  | .getPortBandwidthCmd _ => none
  | .forceHeaderCmd _ => none
  | .noOpCmd _ => none
  | .getExtendedPropertyCmd _ => none
  | .setExtendedPropertyCmd _ => none
  | .reserved26 _ => none
  | .reserved27 _ => none
  | .reserved28 _ => none
  | .reserved29 _ => none
  | .reserved30 _ => none
  | .reserved31 _ => none
  | .transferEvent _ => none
  | .commandCompletionEvent _ => none
  | .portStatusChangeEvent _ => none
  | .bandwidthRequestEvent _ => none
  | .doorbellEvent _ => none
  | .hostControllerEvent _ => none
  | .deviceNotificationEvent _ => none
  | .mfIndexWrapEvent _ => none
  | .reserved40 _ => none
  | .reserved41 _ => none
  | .reserved42 _ => none
  | .reserved43 _ => none
  | .reserved44 _ => none
  | .reserved45 _ => none
  | .reserved46 _ => none
  | .reserved47 _ => none
  | .reserved48 _ => none
  | .reserved49 _ => none
  | .reserved50 _ => none
  | .reserved51 _ => none
  | .reserved52 _ => none
  | .reserved53 _ => none
  | .reserved54 _ => none
  | .reserved55 _ => none
  | .reserved56 _ => none
  | .reserved57 _ => none
  | .reserved58 _ => none
  | .reserved59 _ => none
  | .reserved60 _ => none
  | .reserved61 _ => none
  | .reserved62 _ => none
  | .reserved63 _ => none
  | .crCreate id _ _ => some id
  | .crUpdateFromGuest id => some id
  | .crReset id _ => some id
  | .crDequeueTrb id => some id
  | .crDequeueWorkItem id => some id
  | .erCreate id _ _ _ => some id
  | .erIsFull id => some id
  | .erEnqueue id _ => some id
  | .erUpdateDequeuePointer id _ => some id
  | .erUpdateSegmentTable id _ _ => some id
  | .evTransfer _ _ _ _ _ => none
  | .evCommandCompletion _ _ _ => none
  | .evPortStatusChange _ => none
  | .evHostController _ => none
  | .evDeviceNotification _ _ _ => none
  | .evMfindexWrap => none
  | .cdFromTrbs _ => none
  | .tdFromTrbs _ => none
  | .tdTransferSize _ => none

end Sys2Proof

namespace Sys2Proof.Machine
open Sys2Proof

/-! ## Requests without a meaning -/

/-- The instructions that an idle engine refuses, each with the one refusal it gets. Every other instruction has a
meaning. -/
inductive NoMeaning (s : State) : Instr → Refusal → Prop where
  /-- no instance of that identifier, and not a create (spec/60_exceptions.md R320) -/
  | missing (i : Instr) (id : InstId) : i.instId = some id → findInst s.instances id = none →
      (∀ kind base, i ≠ .crCreate id kind base) → (∀ a n d, i ≠ .erCreate id a n d) → NoMeaning s i (.noInstance id)
  /-- a consumer operation on an Event Ring (R320) -/
  | onEventRing (i : Instr) (id : InstId) (r : EventRing) (pointer : Addr) :
      findInst s.instances id = some (.event r) →
      i ∈ [.crUpdateFromGuest id, .crReset id pointer, .crDequeueTrb id, .crDequeueWorkItem id] →
      NoMeaning s i (.wrongKind id)
  /-- an event operation on a Consumer Ring (R320) -/
  | onConsumerRing (i : Instr) (id : InstId) (c : ConsumerRing) (addr : Addr) (n : Nat) (event : Trb) :
      findInst s.instances id = some (.consumer c) →
      i ∈ [.erIsFull id, .erEnqueue id event, .erUpdateDequeuePointer id addr, .erUpdateSegmentTable id addr n] →
      NoMeaning s i (.wrongKind id)
  /-- a `cr_create` beyond `N_CONSUMER` (log entry 9) -/
  | consumerBound (id : InstId) (kind : RingKind) (base : Addr) :
      roomFor s.params.nConsumer true s.instances id = false → NoMeaning s (.crCreate id kind base) .tooManyInstances
  /-- an `er_create` beyond `N_EVENT` (log entry 9) -/
  | eventBound (id : InstId) (erstba : Addr) (erstsz : Nat) (erdp : Addr) :
      roomFor s.params.nEvent false s.instances id = false →
      NoMeaning s (.erCreate id erstba erstsz erdp) .tooManyInstances
  /-- a record, which is no request: an idle engine is at none (log entry 12) -/
  | record (i : Instr) (t : Trb) : i.trb? = some t → NoMeaning s i .noRecordAtHand

/-! ## The operations of many steps as functions of one ring -/

/-- `cr_dequeue_trb` as the loop of spec/41_consumer_ring.md R189, from a ring whose index is in range: the result, the
ring it leaves and the number of slots passed. `fuel` bounds the slots examined (R192(a)). -/
def dequeueLoop (start : Nat) : Nat → ConsumerRing → Nat → Option Trb × ConsumerRing × Nat
  | 0, c, n => (none, c, n)
  | fuel + 1, c, n =>
    match c.shadow[c.dequeueIndex]? with
    | none => (none, c, n)
    | some t =>
      if t.cycle ≠ c.ccs then (none, c, n)
      else if t.isLink then
        if (passLink c (toggleOf t)).dequeueIndex = start then (none, passLink c (toggleOf t), n + 1)
        else dequeueLoop start fuel (passLink c (toggleOf t)) (n + 1)
      else (some t, advanceIndex c, n + 1)

/-- `cr_dequeue_trb` (spec/41_consumer_ring.md R188, R189). -/
def dequeueTrb (c : ConsumerRing) : Option Trb × ConsumerRing × Nat :=
  if c.dequeueIndex < c.shadow.length then dequeueLoop c.dequeueIndex c.shadow.length c 0 else (none, c, 0)

/-- The loop of `cr_dequeue_work_item` (spec/41_consumer_ring.md R193): the result and the ring it leaves. `fuel` bounds
the TRBs gathered (R197). -/
def workItemLoop : Nat → ConsumerRing → Gather → OpResult × ConsumerRing
  | 0, c, g => (.error .eCyclicIncomplete, rollback c g)
  | fuel + 1, c, g =>
    match dequeueTrb c with
    | (none, c', _) => if g.item = [] then (.ok .noWork, c') else (.error .eIncomplete, rollback c' g)
    | (some t, c', n) =>
      if chainOf t then
        if c'.shadow.length ≤ g.passed + n then (.error .eCyclicIncomplete, rollback c' g)
        else workItemLoop fuel c' { g with item := g.item ++ [t], passed := g.passed + n }
      else
        match c'.kind with
        | .command =>
          match commandDescriptor (g.item ++ [t]) with
          | .ok d => (.ok (.item d), c')
          | .error e => (.error e, c')
        | .transfer => (.ok (.item (transferDescriptor (g.item ++ [t]))), c')

/-- `cr_dequeue_work_item` (spec/41_consumer_ring.md R193). -/
def dequeueWorkItem (c : ConsumerRing) : OpResult × ConsumerRing :=
  workItemLoop (c.shadow.length + 1) c (startGather c)

/-- The loop of `cr_update_from_guest` (spec/41_consumer_ring.md R183) over one unchanging guest memory: `fuel` is the
number of records that may still be read. -/
def refreshLoop (s : State) (base : Addr) : Nat → List Trb → Addr → Except OpError (List Trb)
  | 0, _, _ => .error .eRingTooLarge
  | fuel + 1, gathered, addr =>
    match readTrb s addr with
    | none => .error (.eMem addr)
    | some t =>
      if closesRing base t then .ok (gathered ++ [t])
      else if t.isLink then refreshLoop s base fuel (gathered ++ [t]) (linkTarget t.parameter)
      else refreshLoop s base fuel (gathered ++ [t]) (nextSlotAddr addr)

/-- The reads of `read_table` (spec/42_event_ring.md R232) over one unchanging guest memory: `n` descriptors from number
`i` on. -/
def tableLoop (s : State) (erstba : Addr) : Nat → Nat → Except OpError (List Segment)
  | 0, _ => .ok []
  | n + 1, i =>
    match memRead s (descriptorAddr erstba i) with
    | none => .error (.eMem (descriptorAddr erstba i))
    | some bs =>
      match tableLoop s erstba n (i + 1) with
      | .ok t => .ok (decodeDescriptor bs :: t)
      | .error e => .error e

/-- `read_table` after its first two checks: the reads, then the validation (spec/42_event_ring.md R232). -/
def readTable (s : State) (erstba : Addr) (erstsz : Nat) : Except OpError (List Segment) :=
  match tableLoop s erstba erstsz 0 with
  | .error e => .error e
  | .ok t =>
    match firstBadFrom 0 t with
    | some i => .error (.eInvalidSegmentSize i)
    | none => .ok t

/-! ## The Event Ring in ring order (spec/42_event_ring.md R236, R247) -/

/-- The addresses of the slots of one segment. -/
def segmentSlots (g : Segment) : List Addr := (List.range g.cap).map fun i => g.base + BitVec.ofNat 64 (16 * i)

/-- The addresses of all slots in ring order. -/
def ringSlots (segs : List Segment) : List Addr := segs.flatMap segmentSlots

/-- The position registers describe one slot of the present table (spec/10_state.md R29, R31). -/
def EventRing.positioned (r : EventRing) : Prop :=
  ∃ g, r.segs[r.segIndex]? = some g ∧ 1 ≤ r.remaining ∧ r.remaining ≤ g.cap ∧
    r.enqueuePointer = g.base + BitVec.ofNat 64 (16 * (g.cap - r.remaining))

/-- Enqueue events one after another, each at the state the one before left. -/
def enqueueAll (id : InstId) : List Trb → State → Result
  | [], s => .next s
  | e :: es, s =>
    match execErEnqueue id e s with
    | .next t => enqueueAll id es t
    | .fault r => .fault r
    | .refused r => .refused r

end Sys2Proof.Machine
end

