-- ==== Sys2Proof/Certificates/Slice0/Obligations.lean ====
section
/-! DEFINITION. The statements about the model, from the numbered rules of the spec. -/
open Sys2Proof Sys2Proof.Machine

/-! ## Encoding -/

/-- Every well-formed instruction is what its own bytes decode to (derived; the layout of a request's operands is the
model's choice, log entry 4). -/
def Obligations.EncodedInstructionDecodesBack : Prop :=
  ∀ i : Instr, i.wf = true → decode i.source (encode i) = .ok i

/-- R101: the fields of the record 16 bytes hold, the encoding as the inverse, and totality. -/
def Obligations.RecordDecodingTotalAndInverse : Prop :=
  ∀ b0 b1 b2 b3 b4 b5 b6 b7 b8 b9 b10 b11 b12 b13 b14 b15 : Byte,
    let bytes := [b0, b1, b2, b3, b4, b5, b6, b7, b8, b9, b10, b11, b12, b13, b14, b15]
    let t : Trb := ⟨b7 ++ b6 ++ b5 ++ b4 ++ b3 ++ b2 ++ b1 ++ b0, b11 ++ b10 ++ b9 ++ b8, b15 ++ b14 ++ b13 ++ b12⟩
    Trb.ofBytes bytes = t ∧ t.toBytes = bytes ∧
      ∃ i, decode .ring bytes = .ok i ∧ i.trb? = some t ∧ encode i = bytes

/-- R67: the 16 bytes of a record, and where the cycle bit and the type stand in them. In guest memory, after the
block writes the record at `A`, byte `k` stands at `A + k` modulo 2^64: address arithmetic is the spec's own decision
D1 (R69), and that the bytes of one access wrap at the top of the address space is the model's choice (log entry 14).
-/
def Obligations.RecordIsLittleEndian : Prop :=
  ∀ t : Trb,
    (∀ k < 8, t.toBytes[k]? = some (t.parameter.extractLsb' (8 * k) 8)) ∧
    (∀ k < 4, t.toBytes[8 + k]? = some (t.status.extractLsb' (8 * k) 8)) ∧
    (∀ k < 4, t.toBytes[12 + k]? = some (t.control.extractLsb' (8 * k) 8)) ∧
    (t.toBytes[12]?.map fun b => b.getLsbD 0) = some t.cycle ∧
    (t.toBytes[13]?.map fun b => b.extractLsb' 2 6) = some t.trbType ∧
    t.toBytes.length = 16 ∧
    (∀ (s : State) (a : Addr), ∀ k < 16,
      byteAt (afterWrite s a t).mem (a + BitVec.ofNat 64 k).toNat = t.toBytes[k]?) ∧
    (∀ (s : State) (a : Addr), memRead s a = some t.toBytes → readTrb s a = some t)

/-- Words written out from spec/95_test_vectors.md (the table of encodings, V1 and P1) and from R117 decode to the
instructions they stand for (sanity). The type numbers and the places of the chain and toggle bits are log entry 2. -/
def Obligations.WrittenOutWordsDecode : Prop :=
  decode .ring [0x88, 0x77, 0x66, 0x55, 0x44, 0x33, 0x22, 0x11, 0x08, 0, 0, 0, 0x01, 0x08, 0, 0]
    = .ok (.setupStage ⟨0x1122334455667788, 8, 0, 0, false, 0, true⟩) ∧
  decode .ring [0x00, 0x50, 0, 0, 0, 0, 0, 0, 0x00, 0x02, 0, 0, 0x11, 0x04, 0, 0]
    = .ok (.normal ⟨0x5000, 0x200, 0, 0, true, 0, true⟩) ∧
  decode .ring [0x0F, 0x10, 0, 0, 0, 0, 0, 0, 0, 0, 0, 0, 0x03, 0x18, 0, 0]
    = .ok (.link ⟨0x100F, 0, 0, 0, false, 0, true, true⟩) ∧
  decode .ring [0x55, 0, 0, 0, 0, 0, 0, 0, 0, 0, 0, 0, 0x11, 0x1C, 0, 0] = .ok (.eventData ⟨0x55, 0, 0, 8, true⟩) ∧
  decode .ring [0, 0, 0, 0, 0, 0, 0, 0, 0, 0, 0, 0, 0x11, 0xA0, 0, 0] = .ok (.reserved40 ⟨0, 0, 0, 8, true⟩) ∧
  decode .ring [0x10, 0x20, 0, 0, 0, 0, 0, 0, 0x08, 0, 0, 0x01, 0x01, 0x80, 0x03, 0x01]
    = .ok (.transferEvent ⟨0x2010, 0x01000008, 0x0103, 0, true⟩) ∧
  decodeTableWord 8 0x25 = some .evMfindexWrap

/-- R102: the type tag and the cycle bit stand in the same place in every interpretation of `control`: decoding reads
the tag there whatever the rest of the record holds, and each of the three views of a record (transfer class, Link,
any other) puts its own cycle bit and the type there. -/
def Obligations.TagAndCycleInCommonPlace : Prop :=
  ∀ (i : Instr) (t : Trb), i.trb? = some t →
    decodeTrb t = i ∧ t.cycle = t.control.getLsbD 0 ∧ t.trbType = t.control.extractLsb' 10 6 ∧
      (∀ t' : Trb, t'.control = t.control → t'.trbType = t.trbType ∧ t'.cycle = t.cycle) ∧
      (∀ (c : BitVec 6) (v : TransferTrb), (v.toTrb c).cycle = v.cycle ∧ (v.toTrb c).trbType = c) ∧
      (∀ (c : BitVec 6) (v : LinkTrb), (v.toTrb c).cycle = v.cycle ∧ (v.toTrb c).trbType = c) ∧
      (∀ (c : BitVec 6) (v : PlainTrb), (v.toTrb c).cycle = v.cycle ∧ (v.toTrb c).trbType = c)

/-! ## One step -/

/-- When the bytes at the place the engine fetches from decode to an instruction, the step is that instruction's
execution, after the environment's turn; a request is taken off the port. That a step is one record with the
environment's turn before it, and that a TRB is executed when a refresh or a walk is at it, is the model's choice (log
entry 1); so is how requests come to wait (log entry 7). -/
def Obligations.StepRunsDecodedInstruction : Prop :=
  (∀ (s : State) (bs : List Byte) (rest : List (List Byte)) (i : Instr),
    s.activity = .idle → s.requests = bs :: rest → decode .port bs = .ok i →
      step s = exec i { takeTurn s with requests := rest }) ∧
  (∀ (s : State) (id : InstId) (gathered : List Trb) (addr : Addr) (bs : List Byte) (i : Instr),
    s.activity = .refresh id gathered addr → gathered.length < s.params.maxRingTrbs →
    memRead (takeTurn s) addr = some bs → decode .ring bs = .ok i → step s = exec i (takeTurn s)) ∧
  (∀ (s : State) (id : InstId) (start : Nat) (gather : Option Gather) (c : ConsumerRing) (t : Trb) (i : Instr),
    s.activity = .dequeue id start gather → findInst s.instances id = some (.consumer c) →
    c.shadow[c.dequeueIndex]? = some t → decode .ring t.toBytes = .ok i → step s = exec i (takeTurn s))

/-- R320 (the spec's own decision D29): a request with an unknown operation code, on a missing instance, or of the
other kind is refused. -/
def Obligations.MeaninglessRequestsRefused : Prop :=
  (∀ (s : State) (code : Byte) (operands : List Byte) (rest : List (List Byte)),
    s.activity = .idle → s.requests = (code :: operands) :: rest →
    code.toNat ∉ [1, 2, 3, 4, 5, 16, 17, 18, 19, 20, 32, 33, 34, 35, 36, 37, 48, 49, 50] →
      step s = .refused (.badRequest (.unknownOperation code))) ∧
  (∀ (s : State) (i : Instr) (id : InstId), s.activity = .idle → i.instId = some id →
    (∀ kind base, i ≠ .crCreate id kind base) → (∀ a n d, i ≠ .erCreate id a n d) →
    findInst s.instances id = none → exec i s = .refused (.noInstance id)) ∧
  (∀ (s : State) (id : InstId) (r : EventRing) (pointer : Addr), s.activity = .idle →
    findInst s.instances id = some (.event r) →
    ∀ i ∈ [Instr.crUpdateFromGuest id, .crReset id pointer, .crDequeueTrb id, .crDequeueWorkItem id],
      exec i s = .refused (.wrongKind id)) ∧
  (∀ (s : State) (id : InstId) (c : ConsumerRing) (addr : Addr) (n : Nat) (event : Trb), s.activity = .idle →
    findInst s.instances id = some (.consumer c) →
    ∀ i ∈ [Instr.erIsFull id, .erEnqueue id event, .erUpdateDequeuePointer id addr, .erUpdateSegmentTable id addr n],
      exec i s = .refused (.wrongKind id))

/-! ## Creation and reset of a Consumer Ring -/

/-- R181: the fields of a created Consumer Ring, where `N_CONSUMER` has room for it (log entry 9); nothing else is
written. `ccs` = 1 is the spec's own decision D8. A Consumer Ring of the same identifier is replaced (R181); that an
Event Ring of the same identifier is replaced too is the model's choice (log entry 3). -/
def Obligations.CrCreateMakesEmptyRing : Prop :=
  ∀ (s : State) (id : InstId) (kind : RingKind) (base : Addr), s.activity = .idle →
    roomFor s.params.nConsumer true s.instances id = true →
    ∃ t, exec (.crCreate id kind base) s = .next t ∧ delivered t (.ok .nothing) ∧
      findInst t.instances id
        = some (.consumer { kind := kind, base := base, shadow := [], dequeueIndex := 0, ccs := true }) ∧
      othersKept id s t ∧ sameEnvironment s t ∧ memoryKept s t

/-- Where `N_CONSUMER` (`N_EVENT`) is given and that many other rings of the kind exist, a create of one more is
refused by name (the model's choice, log entry 9). -/
def Obligations.CreateBeyondBoundRefused : Prop :=
  ∀ (s : State) (id : InstId) (kind : RingKind) (base erstba erdp : Addr) (erstsz n : Nat), s.activity = .idle →
    (s.params.nConsumer = some n → n ≤ (s.instances.filter fun p => p.1 != id && isConsumer p.2).length →
      exec (.crCreate id kind base) s = .refused .tooManyInstances) ∧
    (s.params.nEvent = some n → n ≤ (s.instances.filter fun p => p.1 != id && !isConsumer p.2).length →
      exec (.erCreate id erstba erstsz erdp) s = .refused .tooManyInstances)

/-- R186 (its corner cases are the spec's own decision D11): the index `cr_reset` stores; `ccs` and `shadow` are not
changed, and it cannot fail. -/
def Obligations.CrResetStoresOffset : Prop :=
  ∀ (s : State) (id : InstId) (pointer : Addr) (c : ConsumerRing), s.activity = .idle →
    findInst s.instances id = some (.consumer c) →
    ∃ t, exec (.crReset id pointer) s = .next t ∧ delivered t (.ok .nothing) ∧
      findInst t.instances id = some (.consumer { c with
        dequeueIndex := (pointer.toNat + (2 ^ 64 - c.base.toNat)) % 2 ^ 64 / 16 }) ∧
      othersKept id s t ∧ sameEnvironment s t ∧ memoryKept s t

/-! ## `cr_update_from_guest` -/

/-- R183 over a guest memory nobody writes meanwhile: the operation begins, reads at most `MAX_RING_TRBS` records, and
ends with the shadow copy replaced as a whole, or with the error and the instance unchanged. The bound's boundary is
the spec's own decision D3, the instance kept on an error its own decision D10 (log entry 10). -/
def Obligations.RefreshRunsToItsResult : Prop :=
  ∀ (s : State) (id : InstId) (c : ConsumerRing), s.activity = .idle → s.turns = [] →
    findInst s.instances id = some (.consumer c) →
    ∃ s1 n t, exec (.crUpdateFromGuest id) s = .next s1 ∧ underway s1 (.refresh id [] c.base) ∧
      s1.instances = s.instances ∧ n ≤ s.params.maxRingTrbs + 1 ∧ runSteps n s1 = .next t ∧
      othersKept id s t ∧ memoryKept s t ∧ t.params = s.params ∧ t.requests = s.requests ∧
      match refreshLoop { s with serviceFails := false } c.base s.params.maxRingTrbs [] c.base with
      | .ok records =>
        delivered t (.ok .nothing) ∧ findInst t.instances id = some (.consumer { c with shadow := records })
      | .error e => delivered t (.error e) ∧ findInst t.instances id = some (.consumer c)

/-- R185(f), R75: calling `cr_update_from_guest` twice without intervening guest writes yields the same shadow copy:
the second one changes no instance. -/
def Obligations.RefreshTwiceSameShadow : Prop :=
  ∀ (s s1 s2 t1 t2 : State) (id : InstId) (m n : Nat), s.activity = .idle → s.turns = [] →
    exec (.crUpdateFromGuest id) s = .next s1 → runSteps m s1 = .next t1 → delivered t1 (.ok .nothing) →
    exec (.crUpdateFromGuest id) t1 = .next s2 → runSteps n s2 = .next t2 → t2.activity = .idle →
    (∀ k < m, ∀ u, runSteps k s1 = .next u → u.activity ≠ .idle) →
    (∀ k < n, ∀ u, runSteps k s2 = .next u → u.activity ≠ .idle) →
      delivered t2 (.ok .nothing) ∧ findInst t2.instances id = findInst t1.instances id

/-- R182 (the boundary is the spec's own decision D3): when `MAX_RING_TRBS` records have been read and the ring has
not closed, the error is raised before one more read, whatever the memory answers; the instance is unchanged. -/
def Obligations.RingTooLargeAtTheBound : Prop :=
  ∀ (s : State) (id : InstId) (gathered : List Trb) (addr : Addr), s.activity = .refresh id gathered addr →
    gathered.length = s.params.maxRingTrbs →
    ∃ t, step s = .next t ∧ delivered t (.error .eRingTooLarge) ∧ t.instances = s.instances

/-- R302, R313 (the kept instance is the spec's own decision D10): a read that fails in a refresh ends it with the
failing address, and the instance is unchanged. -/
def Obligations.RefreshReadFailureReported : Prop :=
  ∀ (s : State) (id : InstId) (gathered : List Trb) (addr : Addr), s.activity = .refresh id gathered addr →
    gathered.length < s.params.maxRingTrbs → readTrb (takeTurn s) addr = none →
    ∃ t, step s = .next t ∧ delivered t (.error (.eMem addr)) ∧ t.instances = s.instances

/-- R185(a) (the type numbers are log entry 2): a refresh copies every data record of any of the 63 types, whatever
its cycle bit, and reads on at the next address. -/
def Obligations.RefreshCopiesDataRecord : Prop :=
  ∀ (i : Instr) (trb : Trb) (s : State) (id : InstId) (gathered : List Trb) (addr : Addr),
    i.trb? = some trb → trb.isLink = false → s.activity = .refresh id gathered addr →
    ∃ t, exec i s = .next t ∧ underway t (.refresh id (gathered ++ [trb]) (addr + 16#64)) ∧
      t.instances = s.instances ∧ sameEnvironment s t ∧ memoryKept s t

/-- R146 (building the shadow copy), R183 (the type number of Link is log entry 2): a Link is appended and followed
whatever its cycle bit, to its target with the low 4 bits cleared; when that is the ring's base the ring is closed and
the shadow copy replaced as a whole. -/
def Obligations.RefreshFollowsLink : Prop :=
  ∀ (l : LinkTrb) (s : State) (id : InstId) (gathered : List Trb) (addr : Addr) (c : ConsumerRing),
    s.activity = .refresh id gathered addr → findInst s.instances id = some (.consumer c) →
    let trb := l.toTrb 6#6
    let target := BitVec.ofNat 64 (l.parameter.toNat / 16 * 16)
    ∃ t, exec (.link l) s = .next t ∧ sameEnvironment s t ∧ memoryKept s t ∧
      (target ≠ c.base → underway t (.refresh id (gathered ++ [trb]) target) ∧ t.instances = s.instances) ∧
      (target = c.base → delivered t (.ok .nothing) ∧ othersKept id s t ∧
        findInst t.instances id = some (.consumer { c with shadow := gathered ++ [trb] }))

/-- R184, R304: no step ends with `E_MISSING_LINK`. -/
def Obligations.MissingLinkNeverReported : Prop :=
  ∀ s t : State, step s = .next t → t.result = some (.error .eMissingLink) → s.result = some (.error .eMissingLink)

/-! ## `cr_dequeue_trb` -/

/-- R188, R194 (the spec's own decision D9): an empty shadow copy or an index out of range gives `None` (and `NoWork`)
and changes nothing. -/
def Obligations.UnusableIndexReadsEmpty : Prop :=
  ∀ (s : State) (id : InstId) (c : ConsumerRing), s.activity = .idle →
    findInst s.instances id = some (.consumer c) → c.shadow.length = 0 ∨ c.shadow.length ≤ c.dequeueIndex →
    (∃ t, exec (.crDequeueTrb id) s = .next t ∧ delivered t (.ok (.trb none)) ∧ t.instances = s.instances ∧
      sameEnvironment s t ∧ memoryKept s t) ∧
    (∃ t, exec (.crDequeueWorkItem id) s = .next t ∧ delivered t (.ok .noWork) ∧ t.instances = s.instances ∧
      sameEnvironment s t ∧ memoryKept s t)

/-- R189: `cr_dequeue_trb` on a ring whose index is in range begins a walk at that index and ends, after at most as
many steps as the shadow copy has slots, with the result and the ring the loop of R189 gives; with an unusable index
it returns `None` at once and changes nothing. The unusable index (R188) is the spec's own decision D9, and the ring a
full circuit leaves (R191) its own decision D12 (log entry 10); the toggle bit's place is log entry 2, one record a
step log entry 1. -/
def Obligations.DequeueTrbRunsToItsResult : Prop :=
  ∀ (s : State) (id : InstId) (c : ConsumerRing), s.activity = .idle →
    findInst s.instances id = some (.consumer c) →
    (c.shadow.length = 0 ∨ c.shadow.length ≤ c.dequeueIndex →
      ∃ t, exec (.crDequeueTrb id) s = .next t ∧ delivered t (.ok (.trb none)) ∧ t.instances = s.instances ∧
        memoryKept s t) ∧
    (c.dequeueIndex < c.shadow.length → ∃ s1 n t, exec (.crDequeueTrb id) s = .next s1 ∧
      underway s1 (.dequeue id c.dequeueIndex none) ∧
      s1.instances = s.instances ∧ n ≤ c.shadow.length ∧ runSteps n s1 = .next t ∧
      delivered t (.ok (.trb (dequeueTrb c).1)) ∧
      findInst t.instances id = some (.consumer (dequeueTrb c).2.1) ∧ othersKept id s t ∧ t.requests = s.requests)

/-- R192(b): a ring whose slots are all at the other cycle value returns nothing, whatever its index, and keeps its
state. -/
def Obligations.NonCurrentCycleReadsEmpty : Prop :=
  ∀ (s : State) (id : InstId) (c : ConsumerRing), s.activity = .idle →
    findInst s.instances id = some (.consumer c) → (∀ trb ∈ c.shadow, trb.cycle ≠ c.ccs) →
    ∃ s1 n t, exec (.crDequeueTrb id) s = .next s1 ∧ n ≤ 1 ∧ runSteps n s1 = .next t ∧
      delivered t (.ok (.trb none)) ∧ t.instances = s.instances

/-- R140 (the type numbers are log entry 2): `cr_dequeue_trb` returns an available record of any of the 63 data types
unchanged, all 128 bits, after advancing the index by one modulo the shadow length. -/
def Obligations.WalkReturnsDataRecord : Prop :=
  ∀ (i : Instr) (trb : Trb) (s : State) (id : InstId) (start : Nat) (c : ConsumerRing),
    i.trb? = some trb → trb.isLink = false → s.activity = .dequeue id start none →
    findInst s.instances id = some (.consumer c) → trb.cycle = c.ccs →
    ∃ t, exec i s = .next t ∧ delivered t (.ok (.trb (some trb))) ∧
      findInst t.instances id
        = some (.consumer { c with dequeueIndex := (c.dequeueIndex + 1) % c.shadow.length }) ∧
      othersKept id s t ∧ sameEnvironment s t ∧ memoryKept s t

/-- R190, R191 (the toggle bit's place is log entry 2; the state the full circuit leaves is the spec's own decision
D12): an available Link is passed and never returned, `ccs` flips iff its toggle bit is 1, and the walk goes on at the
next slot unless that is the slot it started at, where the answer is "no entry available". -/
def Obligations.WalkPassesLink : Prop :=
  ∀ (l : LinkTrb) (s : State) (id : InstId) (start : Nat) (c : ConsumerRing),
    s.activity = .dequeue id start none → findInst s.instances id = some (.consumer c) → l.cycle = c.ccs →
    ∃ t, exec (.link l) s = .next t ∧
      findInst t.instances id = some (.consumer { c with
        dequeueIndex := (c.dequeueIndex + 1) % c.shadow.length
        ccs := xor c.ccs l.toggleCycle }) ∧
      ((c.dequeueIndex + 1) % c.shadow.length ≠ start → underway t (.dequeue id start none)) ∧
      ((c.dequeueIndex + 1) % c.shadow.length = start → delivered t (.ok (.trb none))) ∧
      othersKept id s t ∧ sameEnvironment s t ∧ memoryKept s t

/-- R83, R189: a record of any type whose cycle bit differs from `ccs` ends `cr_dequeue_trb` with `None` and moves
nothing. -/
def Obligations.UnavailableSlotStopsWalk : Prop :=
  ∀ (i : Instr) (trb : Trb) (s : State) (id : InstId) (start : Nat) (c : ConsumerRing),
    i.trb? = some trb → s.activity = .dequeue id start none →
    findInst s.instances id = some (.consumer c) → trb.cycle ≠ c.ccs →
    ∃ t, exec i s = .next t ∧ delivered t (.ok (.trb none)) ∧ t.instances = s.instances ∧
      sameEnvironment s t ∧ memoryKept s t

/-! ## `cr_dequeue_work_item` and the descriptors -/

/-- R193: `cr_dequeue_work_item` on a ring whose index is in range begins a walk at that index and ends with the
result and the ring the loop of R193 gives; with an unusable index it returns `NoWork` at once and changes nothing.
The spec's own decisions in it (log entry 10): the unusable index (R188) is D9, the ring a full circuit of Links leaves
(R191) D12, the rollback and the count of passed slots (R196, R197) D13, the chain that a size mismatch consumes (R198)
D14, the types that chain D15. The places of the chain and toggle bits are log entry 2, one record a step log entry
1. -/
def Obligations.WorkItemRunsToItsResult : Prop :=
  ∀ (s : State) (id : InstId) (c : ConsumerRing), s.activity = .idle →
    findInst s.instances id = some (.consumer c) →
    (c.shadow.length = 0 ∨ c.shadow.length ≤ c.dequeueIndex →
      ∃ t, exec (.crDequeueWorkItem id) s = .next t ∧ delivered t (.ok .noWork) ∧ t.instances = s.instances ∧
        memoryKept s t) ∧
    (c.dequeueIndex < c.shadow.length → ∃ s1 n t, exec (.crDequeueWorkItem id) s = .next s1 ∧
      underway s1 (.dequeue id c.dequeueIndex (some ⟨c.dequeueIndex, c.ccs, [], 0⟩)) ∧
      s1.instances = s.instances ∧ n ≤ 2 * c.shadow.length ∧ runSteps n s1 = .next t ∧
      delivered t (dequeueWorkItem c).1 ∧
      findInst t.instances id = some (.consumer (dequeueWorkItem c).2) ∧ othersKept id s t ∧
      t.requests = s.requests)

/-- R141 to R145, R193, R197 (the type numbers and the chain bit's place are log entry 2; the count of passed slots
and the rollback are the spec's own decision D13): inside `cr_dequeue_work_item` an available transfer-class record
with its chain bit set continues the work item, unless every slot has been passed; with the chain bit clear it ends
it. On a Transfer Ring the result is the descriptor of all records gathered. -/
def Obligations.TransferClassChains : Prop :=
  ∀ (f : TransferTrb) (s : State) (id : InstId) (start : Nat) (g : Gather) (c : ConsumerRing),
    s.activity = .dequeue id start (some g) → findInst s.instances id = some (.consumer c) → f.cycle = c.ccs →
    ∀ i ∈ [Instr.normal f, .setupStage f, .dataStage f, .statusStage f, .isoch f], ∀ trb, i.trb? = some trb →
      let next := (c.dequeueIndex + 1) % c.shadow.length
      ∃ t, exec i s = .next t ∧ othersKept id s t ∧ sameEnvironment s t ∧ memoryKept s t ∧
        (f.chain = true → g.passed + 1 < c.shadow.length →
          underway t (.dequeue id next
            (some { g with item := g.item ++ [trb], passed := g.passed + 1 })) ∧
          findInst t.instances id = some (.consumer { c with dequeueIndex := next })) ∧
        (f.chain = true → c.shadow.length ≤ g.passed + 1 →
          delivered t (.error .eCyclicIncomplete) ∧
          findInst t.instances id
            = some (.consumer { c with dequeueIndex := g.savedIndex, ccs := g.savedCcs })) ∧
        (f.chain = false → c.kind = .transfer →
          delivered t (.ok (.item (.transfer (g.item ++ [trb])))) ∧
          findInst t.instances id = some (.consumer { c with dequeueIndex := next }))

/-- R147 to R157, R103 (the type numbers are log entry 2; that only the transfer class and Link have a chain bit is
the spec's own decision D15): every record whose type is neither transfer-class nor Link ends the work item it is in,
whatever its bit 4 holds. -/
def Obligations.OtherTypesEndWorkItem : Prop :=
  ∀ (i : Instr) (trb : Trb) (s : State) (id : InstId) (start : Nat) (g : Gather) (c : ConsumerRing),
    i.trb? = some trb → (trb.trbType.toNat = 0 ∨ 7 ≤ trb.trbType.toNat) →
    s.activity = .dequeue id start (some g) → findInst s.instances id = some (.consumer c) → trb.cycle = c.ccs →
    c.kind = .transfer →
    ∃ t, exec i s = .next t ∧ delivered t (.ok (.item (.transfer (g.item ++ [trb])))) ∧
      findInst t.instances id
        = some (.consumer { c with dequeueIndex := (c.dequeueIndex + 1) % c.shadow.length }) ∧
      othersKept id s t ∧ sameEnvironment s t ∧ memoryKept s t

/-- R195, R196 (the spec's own decision D13), R194: when the walk inside `cr_dequeue_work_item` is at a slot of any
type that is not available, the result is `E_INCOMPLETE` with index and `ccs` as at the start of the operation if
something has been gathered, and `NoWork` with the state as it is otherwise. -/
def Obligations.IncompleteItemRolledBack : Prop :=
  ∀ (i : Instr) (trb : Trb) (s : State) (id : InstId) (start : Nat) (g : Gather) (c : ConsumerRing),
    i.trb? = some trb → s.activity = .dequeue id start (some g) →
    findInst s.instances id = some (.consumer c) → trb.cycle ≠ c.ccs →
    ∃ t, exec i s = .next t ∧ othersKept id s t ∧ sameEnvironment s t ∧ memoryKept s t ∧
      (g.item ≠ [] → delivered t (.error .eIncomplete) ∧
        findInst t.instances id = some (.consumer { c with dequeueIndex := g.savedIndex, ccs := g.savedCcs })) ∧
      (g.item = [] → delivered t (.ok .noWork) ∧ t.instances = s.instances)

/-- R199, R197 (the chain bit's place is log entry 2): a Transfer Descriptor that comes out of `cr_dequeue_work_item`
is never empty, every TRB but the last has its chain bit set and the last has not; it holds no Link, and at most as
many TRBs as the shadow copy has slots (R197). -/
def Obligations.TransferDescriptorShape : Prop :=
  ∀ (s t : State) (id : InstId) (start : Nat) (g : Gather) (c : ConsumerRing) (trbs : List Trb), Inv s →
    s.activity = .dequeue id start (some g) → findInst s.instances id = some (.consumer c) →
    step s = .next t → delivered t (.ok (.item (.transfer trbs))) →
      trbs ≠ [] ∧ (∀ trb ∈ trbs.dropLast, chainOf trb = true) ∧ (trbs.getLast?.map chainOf = some false) ∧
      (∀ trb ∈ trbs, trb.isLink = false) ∧ trbs.length ≤ c.shadow.length

/-- R198 (that the chain is consumed is the spec's own decision D14): a Command Descriptor is exactly one TRB; any
other count is the size-mismatch error, and when it comes out of `cr_dequeue_work_item` on a Command Ring the chain's
TRBs are consumed. That `cd_from_trbs` runs in every idle state, also where no instance exists, is DEDUCED (log entry
11). -/
def Obligations.CommandDescriptorArity : Prop :=
  (∀ (s : State) (trbs : List Trb), s.activity = .idle →
    ∃ t, exec (.cdFromTrbs trbs) s = .next t ∧ t.instances = s.instances ∧ sameEnvironment s t ∧ memoryKept s t ∧
      (∀ trb, trbs = [trb] → delivered t (.ok (.descriptor (.command trb)))) ∧
      (trbs.length ≠ 1 → delivered t (.error (.eSizeMismatch trbs.length)))) ∧
  (∀ (i : Instr) (trb : Trb) (s : State) (id : InstId) (start : Nat) (g : Gather) (c : ConsumerRing),
    i.trb? = some trb → trb.isLink = false → chainOf trb = false →
    s.activity = .dequeue id start (some g) → findInst s.instances id = some (.consumer c) → trb.cycle = c.ccs →
    c.kind = .command →
    ∃ t, exec i s = .next t ∧
      findInst t.instances id
        = some (.consumer { c with dequeueIndex := (c.dequeueIndex + 1) % c.shadow.length }) ∧
      (g.item = [] → delivered t (.ok (.item (.command trb)))) ∧
      (g.item ≠ [] → delivered t (.error (.eSizeMismatch (g.item.length + 1)))))

/-- R199 (on its own), R200 (the spec's own decision D16; the place of the length is log entry 2): `td_from_trbs`
checks nothing; `td_transfer_size` is the sum of `status[16:0]` over all TRBs, reduced modulo nothing, and below 2^43
for a descriptor of at most 2^26 TRBs. That both run in every idle state, also where no instance exists, is DEDUCED
(log entry 11). -/
def Obligations.TransferDescriptorAndSize : Prop :=
  ∀ (s : State) (trbs : List Trb), s.activity = .idle →
    (∃ t, exec (.tdFromTrbs trbs) s = .next t ∧ delivered t (.ok (.descriptor (.transfer trbs))) ∧
      t.instances = s.instances ∧ sameEnvironment s t ∧ memoryKept s t) ∧
    (∃ t, exec (.tdTransferSize trbs) s = .next t ∧
      delivered t (.ok (.size (trbs.map fun trb => trb.status.toNat % 2 ^ 17).sum)) ∧
      t.instances = s.instances ∧ sameEnvironment s t ∧ memoryKept s t) ∧
    (trbs.length ≤ 2 ^ 26 → (trbs.map fun trb => trb.status.toNat % 2 ^ 17).sum < 2 ^ 43)

/-! ## The segment table, `er_create`, `er_update_segment_table` -/

/-- R231, R232 (the descriptor's layout is log entry 2, the room for the instance log entry 9) over a guest memory
nobody writes meanwhile: `er_create` of a table of at least one descriptor (and within `ERST_MAX` where one is given)
begins, reads one descriptor a step, and ends with the instance R231 describes, or with the error and the instances as
they were. That a Consumer Ring of the same identifier is replaced is the model's choice (log entry 3). -/
def Obligations.ErCreateRunsToItsResult : Prop :=
  ∀ (s : State) (id : InstId) (erstba erdp : Addr) (erstsz : Nat), s.activity = .idle → s.turns = [] →
    roomFor s.params.nEvent false s.instances id = true → 0 < erstsz → (∀ m, s.params.erstMax = some m → erstsz ≤ m) →
    ∃ s1 n t, exec (.erCreate id erstba erstsz erdp) s = .next s1 ∧
      underway s1 (.readTable id (.create erdp) erstba erstsz []) ∧ s1.instances = s.instances ∧
      n ≤ erstsz ∧ runSteps n s1 = .next t ∧ othersKept id s t ∧ memoryKept s t ∧ t.requests = s.requests ∧
      match readTable { s with serviceFails := false } erstba erstsz with
      | .ok table =>
        delivered t (.ok .nothing) ∧
        ∃ first, table[0]? = some first ∧ findInst t.instances id = some (.event
          { segs := table, segIndex := 0, remaining := first.cap, enqueuePointer := first.base, pcs := true,
            dequeuePointer := some erdp })
      | .error e => delivered t (.error e) ∧ t.instances = s.instances

/-- R244 (what is kept is the spec's own decision D23; the descriptor's layout is log entry 2) over a guest memory
nobody writes meanwhile: `er_update_segment_table` replaces `segs` and nothing else, or ends with the error and the
instance unchanged. -/
def Obligations.UpdateSegmentTableRunsToItsResult : Prop :=
  ∀ (s : State) (id : InstId) (erstba : Addr) (erstsz : Nat) (r : EventRing), s.activity = .idle → s.turns = [] →
    findInst s.instances id = some (.event r) → 0 < erstsz → (∀ m, s.params.erstMax = some m → erstsz ≤ m) →
    ∃ s1 n t, exec (.erUpdateSegmentTable id erstba erstsz) s = .next s1 ∧
      underway s1 (.readTable id .update erstba erstsz []) ∧ s1.instances = s.instances ∧
      n ≤ erstsz ∧ runSteps n s1 = .next t ∧ othersKept id s t ∧ memoryKept s t ∧ t.requests = s.requests ∧
      match readTable { s with serviceFails := false } erstba erstsz with
      | .ok table =>
        delivered t (.ok .nothing) ∧ findInst t.instances id = some (.event { r with segs := table })
      | .error e => delivered t (.error e) ∧ findInst t.instances id = some (.event r)

/-- R306 (the spec's own decision D17; the room for the instance is log entry 9): the two checks made before any
memory access, for both table operations; no instance is created or changed. -/
def Obligations.TableCountCheckedFirst : Prop :=
  ∀ (s : State) (id : InstId) (erstba erdp : Addr) (erstsz : Nat), s.activity = .idle →
    ∀ i, ((i = .erCreate id erstba erstsz erdp ∧ roomFor s.params.nEvent false s.instances id = true) ∨
        (i = .erUpdateSegmentTable id erstba erstsz ∧ ∃ r, findInst s.instances id = some (.event r))) →
    (erstsz = 0 → ∃ t, exec i s = .next t ∧ delivered t (.error .eEmptySegmentTable) ∧ t.instances = s.instances ∧
      sameEnvironment s t ∧ memoryKept s t) ∧
    (∀ m, s.params.erstMax = some m → m < erstsz →
      ∃ t, exec i s = .next t ∧ delivered t (.error .eSegmentTableTooLarge) ∧ t.instances = s.instances ∧
        sameEnvironment s t ∧ memoryKept s t)

/-- R232, R308(a), R305, R231, R244: one step of `read_table`, whatever the guest and the memory service did in the
environment's turn before it and at the steps before that (R74). A failed read is reported with the descriptor's
address before any validation; a descriptor that is not the last is kept as it was read, and the operation goes on;
after the last read the first descriptor in table order with a capacity outside 16 to 4096 is reported by its index,
and a table without one is installed: a new ring for `er_create`, `segs` only for `er_update_segment_table`. The order
of errors is the spec's own decision D28, what a failure and the update keep its own decision D23; the descriptor's
layout is log entry 2, one descriptor a step log entry 1, and that a create replaces a Consumer Ring of the same
identifier log entry 3. -/
def Obligations.TableStepReadsOrEnds : Prop :=
  ∀ (s : State) (id : InstId) (purpose : TablePurpose) (erstba : Addr) (erstsz : Nat) (raw : List Segment),
    s.activity = .readTable id purpose erstba erstsz raw →
    (memRead (takeTurn s) (erstba + BitVec.ofNat 64 (16 * raw.length)) = none →
      ∃ t, step s = .next t ∧ delivered t (.error (.eMem (erstba + BitVec.ofNat 64 (16 * raw.length)))) ∧
        t.instances = s.instances ∧ sameEnvironment (takeTurn s) t ∧ memoryKept (takeTurn s) t) ∧
    (∀ bytes, memRead (takeTurn s) (erstba + BitVec.ofNat 64 (16 * raw.length)) = some bytes →
      let table := raw ++ [decodeDescriptor bytes]
      (raw.length + 1 < erstsz →
        ∃ t, step s = .next t ∧ underway t (.readTable id purpose erstba erstsz table) ∧
          t.instances = s.instances ∧ sameEnvironment (takeTurn s) t ∧ memoryKept (takeTurn s) t) ∧
      (∀ k bad, raw.length + 1 = erstsz → table[k]? = some bad → (bad.cap < 16 ∨ 4096 < bad.cap) →
        (∀ j < k, ∀ g, table[j]? = some g → 16 ≤ g.cap ∧ g.cap ≤ 4096) →
        ∃ t, step s = .next t ∧ delivered t (.error (.eInvalidSegmentSize k)) ∧ t.instances = s.instances ∧
          sameEnvironment (takeTurn s) t ∧ memoryKept (takeTurn s) t) ∧
      (raw.length + 1 = erstsz → (∀ g ∈ table, 16 ≤ g.cap ∧ g.cap ≤ 4096) →
        (∀ erdp first, purpose = .create erdp → table[0]? = some first →
          ∃ t, step s = .next t ∧ delivered t (.ok .nothing) ∧
            findInst t.instances id = some (.event
              { segs := table, segIndex := 0, remaining := first.cap, enqueuePointer := first.base, pcs := true,
                dequeuePointer := some erdp }) ∧
            othersKept id s t ∧ sameEnvironment (takeTurn s) t ∧ memoryKept (takeTurn s) t) ∧
        (∀ r, purpose = .update → findInst s.instances id = some (.event r) →
          ∃ t, step s = .next t ∧ delivered t (.ok .nothing) ∧
            findInst t.instances id = some (.event { r with segs := table }) ∧
            othersKept id s t ∧ sameEnvironment (takeTurn s) t ∧ memoryKept (takeTurn s) t)))

/-! ## `er_is_full`, `er_enqueue`, `er_update_dequeue_pointer` -/

/-- R233, R234 (the spec's own decision D20), R235 (the spec's own decision D23): full iff the next slot is exactly
the known dequeue pointer; true when the pointer is unknown; nothing is written. -/
def Obligations.ErIsFullComparesNextSlot : Prop :=
  ∀ (s : State) (id : InstId) (r : EventRing), s.activity = .idle → findInst s.instances id = some (.event r) →
    r.segs ≠ [] →
    ∃ b t, exec (.erIsFull id) s = .next t ∧ delivered t (.ok (.full b)) ∧ t.instances = s.instances ∧
      sameEnvironment s t ∧ memoryKept s t ∧
      (r.dequeuePointer = none → b = true) ∧
      (∀ d, r.dequeuePointer = some d → r.remaining ≠ 1 → (b = true ↔ r.enqueuePointer + 16#64 = d)) ∧
      (∀ d g, r.dequeuePointer = some d → r.remaining = 1 → r.segIndex + 1 < r.segs.length →
        r.segs[r.segIndex + 1]? = some g → (b = true ↔ g.base = d)) ∧
      (∀ d g, r.dequeuePointer = some d → r.remaining = 1 → r.segs.length ≤ r.segIndex + 1 →
        r.segs[0]? = some g → (b = true ↔ g.base = d))

/-- R239: with an unknown dequeue pointer an event is rejected without writing anything, whatever the memory service
would answer. -/
def Obligations.EnqueueRejectedWhileUnknown : Prop :=
  ∀ (s : State) (id : InstId) (event : Trb) (r : EventRing), s.activity = .idle →
    findInst s.instances id = some (.event r) → r.dequeuePointer = none →
    ∃ t, exec (.erEnqueue id event) s = .next t ∧ delivered t (.error (.eventRingFull event false)) ∧
      t.instances = s.instances ∧ sameEnvironment s t ∧ memoryKept s t

/-- R237, R238: an accepted event is written at the enqueue pointer, stamped with `pcs` in bit 0 of `control` and
otherwise as given; the position moves by one slot, or, when the segment is exhausted, to the next segment, with `pcs`
flipped only in the wrap to segment 0. Every other byte reads as before. -/
def Obligations.EnqueueWritesAndAdvances : Prop :=
  ∀ (s : State) (id : InstId) (event : Trb) (r : EventRing) (d : Addr), s.activity = .idle →
    findInst s.instances id = some (.event r) → r.segs ≠ [] → 1 ≤ r.remaining → r.dequeuePointer = some d →
    nextSlot r ≠ some d → writeOk s r.enqueuePointer = true →
    ∃ (t : State) (r' : EventRing) (w : Trb), exec (.erEnqueue id event) s = .next t ∧ delivered t (.ok .accepted) ∧
      w.parameter = event.parameter ∧ w.status = event.status ∧ w.cycle = r.pcs ∧
      (∀ k, k ≠ 0 → w.control.getLsbD k = event.control.getLsbD k) ∧
      readBytes t.mem r.enqueuePointer 16 = some w.toBytes ∧ memoryKeptOutside r.enqueuePointer s t ∧
      t.freeCount = s.freeCount ∧
      findInst t.instances id = some (.event r') ∧ othersKept id s t ∧ sameEnvironment s t ∧
      (2 ≤ r.remaining →
        r' = { r with enqueuePointer := r.enqueuePointer + 16#64, remaining := r.remaining - 1 }) ∧
      (∀ g, r.remaining = 1 → r.segIndex + 1 < r.segs.length → r.segs[r.segIndex + 1]? = some g →
        r' = { r with segIndex := r.segIndex + 1, enqueuePointer := g.base, remaining := g.cap }) ∧
      (∀ g, r.remaining = 1 → r.segs.length ≤ r.segIndex + 1 → r.segs[0]? = some g →
        r' = { r with segIndex := 0, enqueuePointer := g.base, remaining := g.cap, pcs := !r.pcs })

/-- R240, R242 (the record's numbers are log entry 2): in the full case the full-notification record goes to the slot
at the enqueue pointer in place of the event, stamped with `pcs`; the ring advances as a write does: by one slot, or,
when the segment is exhausted, to the next segment, with `pcs` flipped only in the wrap to segment 0 (the wrap test is
the spec's own decision D23); the dequeue pointer becomes unknown; the event is handed back. Every other byte reads as
before. -/
def Obligations.EnqueueFullWritesNotification : Prop :=
  ∀ (s : State) (id : InstId) (event : Trb) (r : EventRing) (d : Addr), s.activity = .idle →
    findInst s.instances id = some (.event r) → r.segs ≠ [] → r.dequeuePointer = some d →
    nextSlot r = some d → writeOk s r.enqueuePointer = true →
    ∃ t r', exec (.erEnqueue id event) s = .next t ∧ delivered t (.error (.eventRingFull event true)) ∧
      readBytes t.mem r.enqueuePointer 16
        = some (Trb.toBytes ⟨0, 0x15000000, if r.pcs then 0x00009401 else 0x00009400⟩) ∧
      memoryKeptOutside r.enqueuePointer s t ∧ t.freeCount = s.freeCount ∧
      advance r = some r' ∧ findInst t.instances id = some (.event { r' with dequeuePointer := none }) ∧
      othersKept id s t ∧ sameEnvironment s t ∧
      (2 ≤ r.remaining →
        r' = { r with enqueuePointer := r.enqueuePointer + 16#64, remaining := r.remaining - 1 }) ∧
      (∀ g, r.remaining = 1 → r.segIndex + 1 < r.segs.length → r.segs[r.segIndex + 1]? = some g →
        r' = { r with segIndex := r.segIndex + 1, enqueuePointer := g.base, remaining := g.cap }) ∧
      (∀ g, r.remaining = 1 → r.segs.length ≤ r.segIndex + 1 → r.segs[0]? = some g →
        r' = { r with segIndex := 0, enqueuePointer := g.base, remaining := g.cap, pcs := !r.pcs })

/-- R241 (the spec's own decision D21): a failed write ends `er_enqueue` with `E_MEM` at the enqueue pointer and every
instance is exactly as before, in the full case too; only the 16 bytes of the failed write may read differently (U19:
they are any value). -/
def Obligations.EnqueueWriteFailureLeavesRing : Prop :=
  ∀ (s : State) (id : InstId) (event : Trb) (r : EventRing) (d : Addr), s.activity = .idle →
    findInst s.instances id = some (.event r) → r.segs ≠ [] → r.dequeuePointer = some d →
    writeOk s r.enqueuePointer = false →
    ∃ t, exec (.erEnqueue id event) s = .next t ∧ delivered t (.error (.eMem r.enqueuePointer)) ∧
      t.instances = s.instances ∧ memoryKeptOutside r.enqueuePointer s t ∧ sameEnvironment s t

/-- R243 (no check is made: the spec's own decision D24): the acknowledged address is stored exactly as given; nothing
else is written. -/
def Obligations.AcknowledgeStoresAddress : Prop :=
  ∀ (s : State) (id : InstId) (addr : Addr) (r : EventRing), s.activity = .idle →
    findInst s.instances id = some (.event r) →
    ∃ t, exec (.erUpdateDequeuePointer id addr) s = .next t ∧ delivered t (.ok .nothing) ∧
      findInst t.instances id = some (.event { r with dequeuePointer := some addr }) ∧
      othersKept id s t ∧ sameEnvironment s t ∧ memoryKept s t

/-- R31: an accepted event keeps the position registers describing one slot of the table. -/
def Obligations.PositionStaysASlot : Prop :=
  ∀ (s t : State) (id : InstId) (event : Trb) (r r' : EventRing), (∀ g ∈ r.segs, capValid g = true) →
    findInst s.instances id = some (.event r) → r.positioned → exec (.erEnqueue id event) s = .next t →
    findInst t.instances id = some (.event r') → r'.positioned

/-- R236: from `dequeue_pointer = enqueue_pointer` at the first slot of a ring of `T` slots with pairwise different
addresses, all of which the memory service accepts, any number of enqueues up to `T - 1` is accepted, and the `T`-th
event is rejected as the full-notification record is written. -/
def Obligations.CapacityIsTotalMinusOne : Prop :=
  ∀ (s : State) (id : InstId) (r : EventRing) (first : Segment) (events : List Trb), s.activity = .idle →
    s.serviceFails = false → findInst s.instances id = some (.event r) →
    (∀ g ∈ r.segs, capValid g = true) → (ringSlots r.segs).Nodup →
    (∀ a ∈ ringSlots r.segs, accepts s.mem a 16 = true) →
    r.segs[0]? = some first → r.segIndex = 0 → r.remaining = first.cap → r.enqueuePointer = first.base →
    r.dequeuePointer = some first.base →
    (0 < events.length → events.length < (ringSlots r.segs).length →
      ∃ t, enqueueAll id events s = .next t ∧ delivered t (.ok .accepted)) ∧
    (∀ last, events.getLast? = some last → events.length = (ringSlots r.segs).length →
      ∃ t, enqueueAll id events s = .next t ∧ delivered t (.error (.eventRingFull last true)))

/-! ## The builders -/

/-- R281 with R280 (the layout and the type number are log entry 2): every operand truncated to its field, every other
bit 0, no state read or written. -/
def Obligations.TransferEventLayout : Prop :=
  ∀ (s : State) (trbPointer length slot endpoint cc : BitVec 64), s.activity = .idle →
    ∃ t event, exec (.evTransfer trbPointer length slot endpoint cc) s = .next t ∧
      delivered t (.ok (.event event)) ∧ t.instances = s.instances ∧ sameEnvironment s t ∧ memoryKept s t ∧
      event.parameter = trbPointer ∧
      event.status.toNat = cc.toNat % 2 ^ 8 * 2 ^ 24 + length.toNat % 2 ^ 24 ∧
      event.control.toNat = slot.toNat % 2 ^ 8 * 2 ^ 24 + endpoint.toNat % 2 ^ 5 * 2 ^ 16 + 32 * 2 ^ 10

/-- R282, R283, R284 with R280 (the layouts and the numbers are log entry 2). -/
def Obligations.CommandPortHostEventLayout : Prop :=
  ∀ (s : State) (cc slot address port : BitVec 64), s.activity = .idle →
    (∃ t event, exec (.evCommandCompletion cc slot address) s = .next t ∧ delivered t (.ok (.event event)) ∧
      t.instances = s.instances ∧ sameEnvironment s t ∧ memoryKept s t ∧
      event.parameter = address ∧ event.status.toNat = cc.toNat % 2 ^ 8 * 2 ^ 24 ∧
      event.control.toNat = slot.toNat % 2 ^ 8 * 2 ^ 24 + 33 * 2 ^ 10) ∧
    (∃ t event, exec (.evPortStatusChange port) s = .next t ∧ delivered t (.ok (.event event)) ∧
      t.instances = s.instances ∧ sameEnvironment s t ∧ memoryKept s t ∧
      event.parameter.toNat = port.toNat % 2 ^ 8 * 2 ^ 24 ∧ event.status.toNat = 0x01000000 ∧
      event.control.toNat = 34 * 2 ^ 10) ∧
    (∃ t event, exec (.evHostController cc) s = .next t ∧ delivered t (.ok (.event event)) ∧
      t.instances = s.instances ∧ sameEnvironment s t ∧ memoryKept s t ∧
      event.parameter.toNat = 0 ∧ event.status.toNat = cc.toNat % 2 ^ 8 * 2 ^ 24 ∧
      event.control.toNat = 37 * 2 ^ 10)

/-- R285, R286 with R280 (the layouts and the numbers are log entry 2). -/
def Obligations.NotificationWrapEventLayout : Prop :=
  ∀ (s : State) (slot ntype data : BitVec 64), s.activity = .idle →
    (∃ t event, exec (.evDeviceNotification slot ntype data) s = .next t ∧ delivered t (.ok (.event event)) ∧
      t.instances = s.instances ∧ sameEnvironment s t ∧ memoryKept s t ∧
      event.parameter.toNat = data.toNat % 2 ^ 56 * 2 ^ 8 + ntype.toNat % 2 ^ 4 * 2 ^ 4 ∧
      event.status.toNat = 0x01000000 ∧
      event.control.toNat = slot.toNat % 2 ^ 8 * 2 ^ 24 + 38 * 2 ^ 10) ∧
    (∃ t event, exec .evMfindexWrap s = .next t ∧ delivered t (.ok (.event event)) ∧
      t.instances = s.instances ∧ sameEnvironment s t ∧ memoryKept s t ∧
      event.parameter.toNat = 0 ∧ event.status.toNat = 0x01000000 ∧ event.control.toNat = 39 * 2 ^ 10)

/-- R280 (the type numbers are log entry 2): what every builder returns has cycle bit 0 and the type of its class. -/
def Obligations.BuiltEventTypeAndCycle : Prop :=
  ∀ (s t : State) (event : Trb) (i : Instr) (a b c d e : BitVec 64) (n : Nat),
    (i, n) ∈ [(Instr.evTransfer a b c d e, 32), (.evCommandCompletion a b c, 33), (.evPortStatusChange a, 34),
      (.evHostController a, 37), (.evDeviceNotification a b c, 38), (.evMfindexWrap, 39)] →
    exec i s = .next t → t.result = some (.ok (.event event)) →
      event.cycle = false ∧ event.trbType.toNat = n ∧ t.instances = s.instances ∧ memoryKept s t

/-! ## The whole machine -/

/-- The reset state has no instance and meets the invariant (R41, R350: the spec's own decision D29); a reset of the
block in any state loses every instance and does not touch guest memory (R351). That it also ends the operation in
progress and leaves the environment and the parameters is the model's choice (log entry 19). -/
def Obligations.ResetStateMeetsInvariant : Prop :=
  Inv State.reset ∧ (∀ id, findInst State.reset.instances id = none) ∧ State.reset.activity = .idle ∧
  (∀ s : State, (∀ id, findInst (resetBlock s).instances id = none) ∧ (resetBlock s).activity = .idle ∧
    (resetBlock s).result = none ∧ memoryKept s (resetBlock s) ∧ sameEnvironment s (resetBlock s) ∧
    (Inv s → Inv (resetBlock s)))

/-- Every step keeps the invariant, from every state that meets it. -/
def Obligations.StepKeepsInvariant : Prop := ∀ s t : State, Inv s → step s = .next t → Inv t

/-- R301: from a state that meets the invariant a step never faults, and with an operation in progress it always
answers a next state. -/
def Obligations.NoStepFaults : Prop :=
  ∀ s : State, Inv s → (∀ f, step s ≠ .fault f) ∧ (s.activity ≠ .idle → ∃ t, step s = .next t)

/-- R301: each step of an operation in progress leaves less work. -/
def Obligations.BusyStepDecreasesWork : Prop :=
  ∀ s t : State, Inv s → s.activity ≠ .idle → step s = .next t → workLeft t < workLeft s

/-- R301: an operation with a meaning begins, whatever the state, the operands and the environment's turns, and ends
after finitely many steps with one result, without a fault; an operation in progress ends within the work it has left.
What has no meaning is refused with the one refusal `NoMeaning` names: R320 (the spec's own decision D29) and, as the
model's choices, a create beyond the bound (log entry 9) and a record given as a request (log entry 12). -/
def Obligations.EveryOperationEnds : Prop :=
  (∀ (s : State) (i : Instr), Inv s → s.activity = .idle →
    (∃ s1 n t r, exec i s = .next s1 ∧ n ≤ workLeft s1 ∧ runSteps n s1 = .next t ∧ delivered t r) ∨
    (∃ why, NoMeaning s i why ∧ exec i s = .refused why)) ∧
  (∀ s : State, Inv s → s.activity ≠ .idle →
    ∃ n t r, 1 ≤ n ∧ n ≤ workLeft s ∧ runSteps n s = .next t ∧ delivered t r)

/-- R65, R72, R39: `er_enqueue` is the only instruction whose execution changes a byte of guest memory; and a step
that takes no `er_enqueue` off the port, one of `read_table` included, leaves memory as the environment's turn left
it. -/
def Obligations.OnlyEnqueueWritesMemory : Prop :=
  (∀ (i : Instr) (s t : State), exec i s = .next t → (∀ id event, i ≠ .erEnqueue id event) → memoryKept s t) ∧
  (∀ s t : State, step s = .next t → (∀ id event, ¬ requestTaken s (.erEnqueue id event)) →
    memoryKept (takeTurn s) t)

/-- The parameters are the same after every step (R8), and no instruction writes what the other agents of R9 do next:
the requests the dispatch layer issues next (R324: the engine does not queue, reorder or merge them; that they wait in a
field is log entry 7), and the turns to come and the verdict of the present one (that they stand in State is log entry
6). -/
def Obligations.ParametersFixed : Prop :=
  (∀ s t : State, step s = .next t → t.params = s.params) ∧
  (∀ (i : Instr) (s t : State), exec i s = .next t → sameEnvironment s t)

/-- R20: an operation on one instance leaves every other instance alone, whether it executes an instruction or takes a
step without one. -/
def Obligations.InstancesIndependent : Prop :=
  (∀ (i : Instr) (s t : State) (id : InstId), exec i s = .next t → i.instId ≠ some id →
    s.activity.instId ≠ some id → findInst t.instances id = findInst s.instances id) ∧
  (∀ (s t : State) (id : InstId), step s = .next t → (∀ i, requestTaken s i → i.instId ≠ some id) →
    s.activity.instId ≠ some id → findInst t.instances id = findInst s.instances id)

/-- R22, R23, R24: only `cr_create` changes `kind` or `base` of a Consumer Ring, and only a Link that closes the ring
in a refresh changes `shadow`: of every instruction, and of every step. -/
def Obligations.ShadowWrittenByRefreshOnly : Prop :=
  (∀ (i : Instr) (s t : State) (id : InstId) (c c' : ConsumerRing), exec i s = .next t →
    (∀ kind base, i ≠ .crCreate id kind base) →
    findInst s.instances id = some (.consumer c) → findInst t.instances id = some (.consumer c') →
      c'.kind = c.kind ∧ c'.base = c.base ∧
      (c'.shadow ≠ c.shadow → ∃ l gathered addr, i = .link l ∧ s.activity = .refresh id gathered addr ∧
        closesRing c.base (l.toTrb 6#6) = true ∧ c'.shadow = gathered ++ [l.toTrb 6#6])) ∧
  (∀ (s t : State) (id : InstId) (c c' : ConsumerRing), step s = .next t →
    (∀ kind base, ¬ requestTaken s (.crCreate id kind base)) →
    findInst s.instances id = some (.consumer c) → findInst t.instances id = some (.consumer c') →
      c'.kind = c.kind ∧ c'.base = c.base ∧
      (c'.shadow ≠ c.shadow → ∃ (l : LinkTrb) (gathered : List Trb) (addr : Addr),
        s.activity = .refresh id gathered addr ∧ readTrb (takeTurn s) addr = some (l.toTrb 6#6) ∧ closesRing c.base (l.toTrb 6#6) = true ∧
        c'.shadow = gathered ++ [l.toTrb 6#6]))

/-- R26 (the toggle bit's place is log entry 2, the rollback the spec's own decision D13): `ccs` of an existing ring
changes only when a walk passes an available Link whose toggle bit is 1, or by the rollback of `cr_dequeue_work_item`:
of every instruction, and of every step. -/
def Obligations.CcsFlipsOnlyAtTogglingLink : Prop :=
  (∀ (i : Instr) (s t : State) (id : InstId) (c c' : ConsumerRing), exec i s = .next t →
    (∀ kind base, i ≠ .crCreate id kind base) →
    findInst s.instances id = some (.consumer c) → findInst t.instances id = some (.consumer c') →
    c'.ccs ≠ c.ccs →
    ∃ start gather, s.activity = .dequeue id start gather ∧
      ((∃ l, i = .link l ∧ l.toggleCycle = true ∧ l.cycle = c.ccs) ∨
       (∃ g, gather = some g ∧ c'.dequeueIndex = g.savedIndex ∧ c'.ccs = g.savedCcs ∧
         (t.result = some (.error .eIncomplete) ∨ t.result = some (.error .eCyclicIncomplete))))) ∧
  (∀ (s t : State) (id : InstId) (c c' : ConsumerRing), step s = .next t →
    (∀ kind base, ¬ requestTaken s (.crCreate id kind base)) →
    findInst s.instances id = some (.consumer c) → findInst t.instances id = some (.consumer c') →
    c'.ccs ≠ c.ccs →
    ∃ start gather, s.activity = .dequeue id start gather ∧
      ((∃ l : LinkTrb, c.shadow[c.dequeueIndex]? = some (l.toTrb 6#6) ∧ l.toggleCycle = true ∧ l.cycle = c.ccs) ∨
       (∃ g, gather = some g ∧ c'.dequeueIndex = g.savedIndex ∧ c'.ccs = g.savedCcs ∧
         (t.result = some (.error .eIncomplete) ∨ t.result = some (.error .eCyclicIncomplete)))))

/-- R32: `pcs` of an existing ring changes only in the wrap from the last segment to segment 0, in `er_enqueue`: of
every instruction, and of every step but those of an `er_create` of that identifier, which make a new ring in its
place (R231). -/
def Obligations.PcsFlipsOnlyAtWrap : Prop :=
  (∀ (i : Instr) (s t : State) (id : InstId) (r r' : EventRing), exec i s = .next t →
    findInst s.instances id = some (.event r) → findInst t.instances id = some (.event r') → r'.pcs ≠ r.pcs →
    (∃ event, i = .erEnqueue id event) ∧ r.remaining ≤ 1 ∧ r.segs.length ≤ r.segIndex + 1 ∧ r'.segIndex = 0) ∧
  (∀ (s t : State) (id : InstId) (r r' : EventRing), step s = .next t →
    (∀ erdp erstba erstsz raw, s.activity ≠ .readTable id (.create erdp) erstba erstsz raw) →
    findInst s.instances id = some (.event r) → findInst t.instances id = some (.event r') → r'.pcs ≠ r.pcs →
    (∃ event, requestTaken s (.erEnqueue id event)) ∧ r.remaining ≤ 1 ∧ r.segs.length ≤ r.segIndex + 1 ∧
      r'.segIndex = 0)

/-- R33: an unknown dequeue pointer of an existing ring becomes known only by `er_update_dequeue_pointer`, and a known
one becomes unknown only by `er_enqueue` in the full case: of every instruction, and of every step but those of an
`er_create` of that identifier, which make a new ring in its place (R231). -/
def Obligations.OnlyAcknowledgeMakesPointerKnown : Prop :=
  (∀ (i : Instr) (s t : State) (id : InstId) (r r' : EventRing), exec i s = .next t →
    findInst s.instances id = some (.event r) → findInst t.instances id = some (.event r') →
    (r.dequeuePointer = none → r'.dequeuePointer ≠ none →
      ∃ addr, i = .erUpdateDequeuePointer id addr ∧ r'.dequeuePointer = some addr) ∧
    (∀ d, r.dequeuePointer = some d → r'.dequeuePointer = none →
      ∃ event, i = .erEnqueue id event ∧ nextSlot r = some d ∧
        t.result = some (.error (.eventRingFull event true)))) ∧
  (∀ (s t : State) (id : InstId) (r r' : EventRing), step s = .next t →
    (∀ erdp erstba erstsz raw, s.activity ≠ .readTable id (.create erdp) erstba erstsz raw) →
    findInst s.instances id = some (.event r) → findInst t.instances id = some (.event r') →
    (r.dequeuePointer = none → r'.dequeuePointer ≠ none →
      ∃ addr, requestTaken s (.erUpdateDequeuePointer id addr) ∧ r'.dequeuePointer = some addr) ∧
    (∀ d, r.dequeuePointer = some d → r'.dequeuePointer = none →
      ∃ event, requestTaken s (.erEnqueue id event) ∧ nextSlot r = some d ∧
        t.result = some (.error (.eventRingFull event true))))

/-- R85: what the guest does to its memory is not seen by a walk: two states that differ only in guest memory and in
the environment's turns give the same instances, operation in progress and result. -/
def Obligations.WalkDoesNotSeeGuestStores : Prop :=
  ∀ (s : State) (id : InstId) (start : Nat) (gather : Option Gather) (mem : Memory) (turns : List Turn)
    (t : State), s.activity = .dequeue id start gather → step s = .next t →
    ∃ u, step { s with mem := mem, turns := turns } = .next u ∧ u.instances = t.instances ∧
      u.activity = t.activity ∧ u.result = t.result

/-- R74, R330: what the guest and the memory service do before a step writes guest memory and the service's verdict, and
nothing of the block: the instances, the operation in progress, the result, the parameters, the waiting requests and the
count of free values are out of its reach. That it comes as one turn taken off a list, and that with no turn to come
guest memory is as it was, is the model's choice (log entry 6); that an engine with no request and no operation in
progress takes a step of that turn alone is another (log entry 8). -/
def Obligations.GuestReachesMemoryOnly : Prop :=
  ∀ s : State, (takeTurn s).instances = s.instances ∧ (takeTurn s).activity = s.activity ∧
    (takeTurn s).result = s.result ∧ (takeTurn s).params = s.params ∧ (takeTurn s).requests = s.requests ∧
    (takeTurn s).freeCount = s.freeCount ∧ (takeTurn s).turns = s.turns.tail ∧
    (s.turns = [] → (takeTurn s).mem = s.mem) ∧
    (s.activity = .idle → s.requests = [] → step s = .next (takeTurn s))
end

