-- ==== Sys2Proof/Laws/Instances.lean ====
section
/-! SUPPORT. Laws of the set of instances: one entry per identifier, and an update of one leaves every other alone. -/
namespace Sys2Proof.Machine

@[simp] theorem findInst_putInst_self (m : Instances) (id : InstId) (r : RingInstance) :
    findInst (putInst m id r) id = some r := by
  induction m with
  | nil => simp [putInst, findInst]
  | cons p m ih =>
    obtain ⟨k, q⟩ := p
    simp only [putInst]
    split
    · simp [findInst]
    · split
      · simp [findInst]
      · simp [findInst, *]

/-- An operation on one identifier leaves the instance of every other one alone (spec/10_state.md R20). -/
theorem findInst_putInst_of_ne (m : Instances) {id id' : InstId} (r : RingInstance) (h : id' ≠ id) :
    findInst (putInst m id r) id' = findInst m id' := by
  induction m with
  | nil => simp [putInst, findInst, h]
  | cons p m ih =>
    obtain ⟨k, q⟩ := p
    simp only [putInst]
    split
    · simp [findInst, h]
    · split
      · rename_i hk; subst hk; simp [findInst, h]
      · simp [findInst, ih]

/-- Storing twice under one identifier is storing the second. -/
@[simp] theorem putInst_putInst (m : Instances) (id : InstId) (r q : RingInstance) :
    putInst (putInst m id r) id q = putInst m id q := by
  induction m with
  | nil => simp [putInst]
  | cons p m ih =>
    obtain ⟨k, x⟩ := p
    by_cases h1 : id < k
    · simp [putInst, h1]
    · by_cases h2 : id = k
      · simp [putInst, h2]
      · simp [putInst, h1, h2, ih]

theorem mem_keys_putInst {m : Instances} {id : InstId} {r : RingInstance} {k : InstId} :
    k ∈ (putInst m id r).map Prod.fst → k = id ∨ k ∈ m.map Prod.fst := by
  induction m with
  | nil => simp [putInst]
  | cons p m ih =>
    obtain ⟨k', q⟩ := p
    simp only [putInst]
    split
    · simp
    · split
      · simp; tauto
      · simp only [List.map_cons, List.mem_cons]; rintro (h | h)
        · tauto
        · rcases ih h with h | h <;> tauto

/-- The canonical form is kept. -/
theorem putInst_wf {m : Instances} (h : Instances.wf m) (id : InstId) (r : RingInstance) :
    Instances.wf (putInst m id r) := by
  induction m with
  | nil => simp [putInst, Instances.wf]
  | cons p m ih =>
    obtain ⟨k, q⟩ := p
    simp only [Instances.wf, List.map_cons, List.pairwise_cons] at h
    have hm := ih h.2
    simp only [putInst]
    split
    · rename_i hlt
      simp only [Instances.wf, List.map_cons, List.pairwise_cons, List.mem_cons]
      refine ⟨?_, h⟩
      rintro a (rfl | ha)
      · exact hlt
      · exact lt_trans hlt (h.1 a ha)
    · split
      · rename_i heq; subst heq
        simpa only [Instances.wf, List.map_cons, List.pairwise_cons] using h
      · simp only [Instances.wf, List.map_cons, List.pairwise_cons]
        refine ⟨fun a ha => ?_, hm⟩
        rcases mem_keys_putInst ha with rfl | ha
        · have : ¬ a < k ∧ ¬ a = k := ⟨‹_›, ‹_›⟩
          exact lt_of_le_of_ne (not_lt.1 this.1) (Ne.symm this.2)
        · exact h.1 a ha

theorem find_of_mem_putInst {m : Instances} {id k : InstId} {r q : RingInstance} :
    (k, q) ∈ putInst m id r → (k, q) = (id, r) ∨ (k, q) ∈ m := by
  induction m with
  | nil => simp [putInst]
  | cons p m ih =>
    obtain ⟨k', q'⟩ := p
    simp only [putInst]
    split
    · simp only [List.mem_cons]; tauto
    · split
      · simp only [List.mem_cons]; tauto
      · simp only [List.mem_cons]; rintro (h | h)
        · exact .inr (.inl h)
        · rcases ih h with h | h
          · exact .inl h
          · exact .inr (.inr h)

theorem mem_of_findInst {m : Instances} {id : InstId} {r : RingInstance} (h : findInst m id = some r) :
    (id, r) ∈ m := by
  induction m with
  | nil => simp [findInst] at h
  | cons p m ih =>
    obtain ⟨k, q⟩ := p
    simp only [findInst] at h
    split at h
    · simp_all
    · exact List.mem_cons_of_mem _ (ih h)

end Sys2Proof.Machine
end

