-- ==== Sys2Proof/Laws/Memory.lean ====
section
/-! SUPPORT. Laws of guest memory: a read after a write, a write leaves every other byte alone, and every operation
keeps the canonical form. -/
namespace Sys2Proof.Machine
open Sys2Proof

@[simp] theorem byteAt_setByte_self (m : Memory) (a : Nat) (b : Byte) : byteAt (setByte m a b) a = some b := by
  induction m with
  | nil => simp [setByte, byteAt]
  | cons p m ih =>
    obtain ⟨k, c⟩ := p
    simp only [setByte]
    split
    · simp [byteAt]
    · split
      · simp [byteAt]
      · simp [byteAt, *]

theorem byteAt_setByte_of_ne (m : Memory) {a a' : Nat} (b : Byte) (h : a' ≠ a) :
    byteAt (setByte m a b) a' = byteAt m a' := by
  induction m with
  | nil => simp [setByte, byteAt, h]
  | cons p m ih =>
    obtain ⟨k, c⟩ := p
    simp only [setByte]
    split
    · simp [byteAt, h]
    · split
      · rename_i hk; subst hk; simp [byteAt, h]
      · simp [byteAt, ih]

theorem mem_keys_setByte {m : Memory} {a k : Nat} {b : Byte} :
    k ∈ (setByte m a b).map Prod.fst → k = a ∨ k ∈ m.map Prod.fst := by
  induction m with
  | nil => simp [setByte]
  | cons p m ih =>
    obtain ⟨k', c⟩ := p
    simp only [setByte]
    split
    · simp
    · split
      · simp; tauto
      · simp only [List.map_cons, List.mem_cons]; rintro (h | h)
        · tauto
        · rcases ih h with h | h <;> tauto

theorem bounded_iff_keys {m : Memory} :
    (∀ c ∈ m, c.1 < 18446744073709551616) ↔ ∀ k ∈ m.map Prod.fst, k < 18446744073709551616 := by
  simp only [List.mem_map]; constructor
  · rintro h _ ⟨c, hc, rfl⟩; exact h c hc
  · intro h c hc; exact h _ ⟨c, hc, rfl⟩

theorem setByte_rising {m : Memory} (h : (m.map Prod.fst).Pairwise (· < ·)) (a : Nat) (b : Byte) :
    ((setByte m a b).map Prod.fst).Pairwise (· < ·) := by
  induction m with
  | nil => simp [setByte]
  | cons p m ih =>
    obtain ⟨k, c⟩ := p
    simp only [List.map_cons, List.pairwise_cons] at h
    have hm := ih h.2
    simp only [setByte]
    split
    · rename_i hlt
      simp only [List.map_cons, List.pairwise_cons, List.mem_cons]
      refine ⟨?_, h⟩
      rintro x (rfl | hx)
      · exact hlt
      · exact lt_trans hlt (h.1 x hx)
    · split
      · rename_i heq; subst heq
        simpa only [List.map_cons, List.pairwise_cons] using h
      · simp only [List.map_cons, List.pairwise_cons]
        refine ⟨fun x hx => ?_, hm⟩
        rcases mem_keys_setByte hx with rfl | hx
        · omega
        · exact h.1 x hx

/-- Setting a byte keeps the canonical form. -/
theorem setByte_wf {m : Memory} (h : m.wf) {a : Nat} (ha : a < 18446744073709551616) (b : Byte) :
    (setByte m a b).wf := by
  refine ⟨setByte_rising h.1 a b, bounded_iff_keys.2 fun k hk => ?_⟩
  rcases mem_keys_setByte hk with rfl | hk
  · exact ha
  · exact bounded_iff_keys.1 h.2 k hk

theorem dropByte_sublist (m : Memory) (a : Nat) : List.Sublist (dropByte m a) m := by
  induction m with
  | nil => simp [dropByte]
  | cons p m ih =>
    obtain ⟨k, c⟩ := p
    simp only [dropByte]
    split
    · exact List.sublist_cons_self _ _
    · exact ih.cons_cons _

/-- Taking an address away keeps the canonical form. -/
theorem dropByte_wf {m : Memory} (h : m.wf) (a : Nat) : (dropByte m a).wf :=
  ⟨h.1.sublist ((dropByte_sublist m a).map _), fun c hc => h.2 c ((dropByte_sublist m a).subset hc)⟩

/-- An act of the guest keeps the canonical form. -/
theorem pokeMem_wf {m : Memory} (h : m.wf) (p : Poke) : (pokeMem m p).wf := by
  unfold pokeMem
  split
  · exact setByte_wf h p.addr.isLt _
  · exact dropByte_wf h _

theorem pokes_wf {m : Memory} (h : m.wf) (ps : List Poke) : (ps.foldl pokeMem m).wf := by
  induction ps generalizing m with
  | nil => exact h
  | cons p ps ih => exact ih (pokeMem_wf h p)

/-- A write keeps the canonical form. -/
theorem writeBytes_wf {m : Memory} (h : m.wf) (a : Addr) (bs : List Byte) : (writeBytes m a bs).wf := by
  induction bs generalizing m a with
  | nil => exact h
  | cons b bs ih => exact ih (setByte_wf h a.isLt b) _

/-- A failed write keeps the canonical form. -/
theorem scrambleBytes_wf {m : Memory} (h : m.wf) (a : Addr) (k n : Nat) : (scrambleBytes m a k n).wf := by
  induction n generalizing m a k with
  | zero => exact h
  | succ n ih =>
    simp only [scrambleBytes]
    split
    · exact ih h _ _
    · exact ih (setByte_wf h a.isLt _) _ _

/-! ## Read after write -/

/-- The bytes at distance `n` or more above `a` are not the `n` bytes from `a`. -/
theorem byteAt_writeBytes_outside (m : Memory) (a : Addr) (bs : List Byte) (x : Nat)
    (h : ∀ i < bs.length, x ≠ (a + BitVec.ofNat 64 i).toNat) : byteAt (writeBytes m a bs) x = byteAt m x := by
  induction bs generalizing m a with
  | nil => rfl
  | cons b bs ih =>
    rw [writeBytes, ih, byteAt_setByte_of_ne]
    · simpa using h 0 (by simp)
    · intro i hi
      have := h (i + 1) (by simpa using hi)
      rwa [BitVec.add_assoc, show (1#64 + BitVec.ofNat 64 i) = BitVec.ofNat 64 (i + 1) by
        rw [BitVec.ofNat_add, BitVec.add_comm]]

theorem offset_toNat_ne {a : Addr} {i j : Nat} (hi : i < 18446744073709551616) (hj : j < 18446744073709551616)
    (h : i ≠ j) : (a + BitVec.ofNat 64 i).toNat ≠ (a + BitVec.ofNat 64 j).toNat := by
  have := a.isLt
  simp only [BitVec.toNat_add, BitVec.toNat_ofNat]
  omega

/-- The `i`-th byte written reads back. -/
theorem byteAt_writeBytes_inside (m : Memory) (a : Addr) (bs : List Byte) (hlen : bs.length < 18446744073709551616)
    (i : Nat) (hi : i < bs.length) : byteAt (writeBytes m a bs) (a + BitVec.ofNat 64 i).toNat = some bs[i] := by
  induction bs generalizing m a i with
  | nil => simp at hi
  | cons b bs ih =>
    simp only [List.length_cons] at hlen hi
    rw [writeBytes]
    cases i with
    | zero =>
      rw [byteAt_writeBytes_outside]
      · simp
      · intro j hj
        rw [BitVec.add_assoc, show (1#64 + BitVec.ofNat 64 j) = BitVec.ofNat 64 (j + 1) by
          rw [BitVec.ofNat_add, BitVec.add_comm]]
        exact offset_toNat_ne (by omega) (by omega) (by omega)
    | succ i =>
      have := ih (setByte m a.toNat b) (a + 1#64) (by omega) i (by omega)
      rw [BitVec.add_assoc, show (1#64 + BitVec.ofNat 64 i) = BitVec.ofNat 64 (i + 1) by
          rw [BitVec.ofNat_add, BitVec.add_comm]] at this
      simpa using this

theorem readBytes_eq_some {m : Memory} {a : Addr} {bs : List Byte}
    (h : ∀ i (hi : i < bs.length), byteAt m (a + BitVec.ofNat 64 i).toNat = some bs[i]) :
    readBytes m a bs.length = some bs := by
  induction bs generalizing a with
  | nil => rfl
  | cons b bs ih =>
    have h0 := h 0 (by simp)
    simp only [BitVec.add_zero, List.getElem_cons_zero] at h0
    have hr : readBytes m (a + 1#64) bs.length = some bs := by
      refine ih fun i hi => ?_
      have := h (i + 1) (by simpa using hi)
      rw [BitVec.add_assoc, show (1#64 + BitVec.ofNat 64 i) = BitVec.ofNat 64 (i + 1) by
          rw [BitVec.ofNat_add, BitVec.add_comm]]
      simpa using this
    simp only [List.length_cons, readBytes, hr]
    simp_all

/-- A read of what a write stored gives what was stored. -/
theorem readBytes_writeBytes (m : Memory) (a : Addr) (bs : List Byte) (h : bs.length < 18446744073709551616) :
    readBytes (writeBytes m a bs) a bs.length = some bs :=
  readBytes_eq_some fun i hi => byteAt_writeBytes_inside m a bs h i hi

theorem length_of_readBytes {m : Memory} {a : Addr} {n : Nat} {bs : List Byte} (h : readBytes m a n = some bs) :
    bs.length = n := by
  induction n generalizing a bs with
  | zero => simp [readBytes] at h; simp [h]
  | succ n ih =>
    simp only [readBytes] at h
    split at h
    · simp at h
    · split at h
      · simp at h
      · simp only [Option.some.injEq] at h; subst h
        simp [ih ‹_›]

end Sys2Proof.Machine
end

