-- ==== Sys2Proof/Laws/Records.lean ====
section
/-! SUPPORT. Laws of byte order, records and typed views: what is written is what is read back. -/
namespace Sys2Proof

@[simp] theorem length_leBytes (n v : Nat) : (leBytes n v).length = n := by
  induction n generalizing v with
  | zero => rfl
  | succ n ih => simp [leBytes, ih]

theorem leNat_leBytes (n v : Nat) : leNat (leBytes n v) = v % 256 ^ n := by
  induction n generalizing v with
  | zero => simp [leBytes, leNat, Nat.mod_one]
  | succ n ih =>
    rw [leBytes, leNat, ih, BitVec.toNat_ofNat, show 256 ^ (n + 1) = 256 * 256 ^ n from pow_succ' 256 n, Nat.mod_mul]

theorem leNat_leBytes_of_lt {n v : Nat} (h : v < 256 ^ n) : leNat (leBytes n v) = v := by
  rw [leNat_leBytes, Nat.mod_eq_of_lt h]

@[simp] theorem Trb.length_toBytes (t : Trb) : t.toBytes.length = 16 := by simp [Trb.toBytes]

/-- Decoding the 16 bytes of a record gives the record (R101). -/
@[simp] theorem Trb.ofBytes_toBytes (t : Trb) : Trb.ofBytes t.toBytes = t := by
  obtain ⟨p, s, c⟩ := t
  have hp := leNat_leBytes_of_lt (n := 8) (v := p.toNat) (by have := p.isLt; omega)
  have hs := leNat_leBytes_of_lt (n := 4) (v := s.toNat) (by have := s.isLt; omega)
  have hc := leNat_leBytes_of_lt (n := 4) (v := c.toNat) (by have := c.isLt; omega)
  simp [Trb.ofBytes, Trb.toBytes, List.drop_append, hp, hs, hc, List.take_of_length_le, List.drop_of_length_le]

/-! ## The views: the tag, the cycle bit and the fields of a record built from a view -/

theorem TransferTrb.trbType_toTrb (c : BitVec 6) (t : TransferTrb) : (t.toTrb c).trbType = c := by
  ext i hi
  simp only [Trb.trbType, TransferTrb.toTrb, BitVec.getElem_extractLsb', BitVec.getLsbD_append]
  interval_cases i <;> simp

theorem TransferTrb.high_toTrb (c : BitVec 6) (t : TransferTrb) : (t.toTrb c).control.extractLsb' 16 16 = t.high := by
  ext i hi
  simp only [TransferTrb.toTrb, BitVec.getElem_extractLsb', BitVec.getLsbD_append]
  interval_cases i <;> simp

theorem TransferTrb.mid_toTrb (c : BitVec 6) (t : TransferTrb) : (t.toTrb c).control.extractLsb' 5 5 = t.mid := by
  ext i hi
  simp only [TransferTrb.toTrb, BitVec.getElem_extractLsb', BitVec.getLsbD_append]
  interval_cases i <;> simp

theorem TransferTrb.low_toTrb (c : BitVec 6) (t : TransferTrb) : (t.toTrb c).control.extractLsb' 1 3 = t.low := by
  ext i hi
  simp only [TransferTrb.toTrb, BitVec.getElem_extractLsb', BitVec.getLsbD_append]
  interval_cases i <;> simp

theorem TransferTrb.chainBit_toTrb (c : BitVec 6) (t : TransferTrb) : (t.toTrb c).control.getLsbD 4 = t.chain := by
  simp only [TransferTrb.toTrb, BitVec.getLsbD_append]
  simp

theorem TransferTrb.cycleBit_toTrb (c : BitVec 6) (t : TransferTrb) : (t.toTrb c).control.getLsbD 0 = t.cycle := by
  simp only [TransferTrb.toTrb, BitVec.getLsbD_append]
  simp

/-- The view of a record built from a view is the view again: no bit is dropped. -/
@[simp] theorem TransferTrb.ofTrb_toTrb (c : BitVec 6) (t : TransferTrb) : TransferTrb.ofTrb (t.toTrb c) = t := by
  simp only [TransferTrb.ofTrb, TransferTrb.high_toTrb, TransferTrb.mid_toTrb, TransferTrb.low_toTrb, TransferTrb.chainBit_toTrb, TransferTrb.cycleBit_toTrb]
  rfl

@[simp] theorem TransferTrb.cycle_toTrb (c : BitVec 6) (t : TransferTrb) : (t.toTrb c).cycle = t.cycle :=
  TransferTrb.cycleBit_toTrb c t

@[simp] theorem TransferTrb.isLink_toTrb (c : BitVec 6) (t : TransferTrb) : (t.toTrb c).isLink = (c == 6#6) := by
  rw [Trb.isLink, TransferTrb.trbType_toTrb]

theorem LinkTrb.trbType_toTrb (c : BitVec 6) (t : LinkTrb) : (t.toTrb c).trbType = c := by
  ext i hi
  simp only [Trb.trbType, LinkTrb.toTrb, BitVec.getElem_extractLsb', BitVec.getLsbD_append]
  interval_cases i <;> simp

theorem LinkTrb.high_toTrb (c : BitVec 6) (t : LinkTrb) : (t.toTrb c).control.extractLsb' 16 16 = t.high := by
  ext i hi
  simp only [LinkTrb.toTrb, BitVec.getElem_extractLsb', BitVec.getLsbD_append]
  interval_cases i <;> simp

theorem LinkTrb.mid_toTrb (c : BitVec 6) (t : LinkTrb) : (t.toTrb c).control.extractLsb' 5 5 = t.mid := by
  ext i hi
  simp only [LinkTrb.toTrb, BitVec.getElem_extractLsb', BitVec.getLsbD_append]
  interval_cases i <;> simp

theorem LinkTrb.low_toTrb (c : BitVec 6) (t : LinkTrb) : (t.toTrb c).control.extractLsb' 2 2 = t.low := by
  ext i hi
  simp only [LinkTrb.toTrb, BitVec.getElem_extractLsb', BitVec.getLsbD_append]
  interval_cases i <;> simp

theorem LinkTrb.chainBit_toTrb (c : BitVec 6) (t : LinkTrb) : (t.toTrb c).control.getLsbD 4 = t.chain := by
  simp only [LinkTrb.toTrb, BitVec.getLsbD_append]
  simp

theorem LinkTrb.toggleCycleBit_toTrb (c : BitVec 6) (t : LinkTrb) : (t.toTrb c).control.getLsbD 1 = t.toggleCycle := by
  simp only [LinkTrb.toTrb, BitVec.getLsbD_append]
  simp

theorem LinkTrb.cycleBit_toTrb (c : BitVec 6) (t : LinkTrb) : (t.toTrb c).control.getLsbD 0 = t.cycle := by
  simp only [LinkTrb.toTrb, BitVec.getLsbD_append]
  simp

/-- The view of a record built from a view is the view again: no bit is dropped. -/
@[simp] theorem LinkTrb.ofTrb_toTrb (c : BitVec 6) (t : LinkTrb) : LinkTrb.ofTrb (t.toTrb c) = t := by
  simp only [LinkTrb.ofTrb, LinkTrb.high_toTrb, LinkTrb.mid_toTrb, LinkTrb.low_toTrb, LinkTrb.chainBit_toTrb, LinkTrb.toggleCycleBit_toTrb, LinkTrb.cycleBit_toTrb]
  rfl

@[simp] theorem LinkTrb.cycle_toTrb (c : BitVec 6) (t : LinkTrb) : (t.toTrb c).cycle = t.cycle :=
  LinkTrb.cycleBit_toTrb c t

@[simp] theorem LinkTrb.isLink_toTrb (c : BitVec 6) (t : LinkTrb) : (t.toTrb c).isLink = (c == 6#6) := by
  rw [Trb.isLink, LinkTrb.trbType_toTrb]

theorem PlainTrb.trbType_toTrb (c : BitVec 6) (t : PlainTrb) : (t.toTrb c).trbType = c := by
  ext i hi
  simp only [Trb.trbType, PlainTrb.toTrb, BitVec.getElem_extractLsb', BitVec.getLsbD_append]
  interval_cases i <;> simp

theorem PlainTrb.high_toTrb (c : BitVec 6) (t : PlainTrb) : (t.toTrb c).control.extractLsb' 16 16 = t.high := by
  ext i hi
  simp only [PlainTrb.toTrb, BitVec.getElem_extractLsb', BitVec.getLsbD_append]
  interval_cases i <;> simp

theorem PlainTrb.mid_toTrb (c : BitVec 6) (t : PlainTrb) : (t.toTrb c).control.extractLsb' 1 9 = t.mid := by
  ext i hi
  simp only [PlainTrb.toTrb, BitVec.getElem_extractLsb', BitVec.getLsbD_append]
  interval_cases i <;> simp

theorem PlainTrb.cycleBit_toTrb (c : BitVec 6) (t : PlainTrb) : (t.toTrb c).control.getLsbD 0 = t.cycle := by
  simp only [PlainTrb.toTrb, BitVec.getLsbD_append]
  simp

/-- The view of a record built from a view is the view again: no bit is dropped. -/
@[simp] theorem PlainTrb.ofTrb_toTrb (c : BitVec 6) (t : PlainTrb) : PlainTrb.ofTrb (t.toTrb c) = t := by
  simp only [PlainTrb.ofTrb, PlainTrb.high_toTrb, PlainTrb.mid_toTrb, PlainTrb.cycleBit_toTrb]
  rfl

@[simp] theorem PlainTrb.cycle_toTrb (c : BitVec 6) (t : PlainTrb) : (t.toTrb c).cycle = t.cycle :=
  PlainTrb.cycleBit_toTrb c t

@[simp] theorem PlainTrb.isLink_toTrb (c : BitVec 6) (t : PlainTrb) : (t.toTrb c).isLink = (c == 6#6) := by
  rw [Trb.isLink, PlainTrb.trbType_toTrb]

/-! ## Rebuilding a record from its view -/

/-- A record is its own view put back under its own type: the view keeps all 128 bits (R140). -/
theorem TransferTrb.toTrb_ofTrb (t : Trb) : (TransferTrb.ofTrb t).toTrb t.trbType = t := by
  obtain ⟨p, s, c⟩ := t
  simp only [TransferTrb.toTrb, TransferTrb.ofTrb, Trb.trbType, Trb.mk.injEq, true_and]
  ext i hi
  simp only [BitVec.getElem_append, BitVec.getElem_extractLsb']
  interval_cases i <;> simp

/-- A record is its own view put back under its own type: the view keeps all 128 bits (R140). -/
theorem LinkTrb.toTrb_ofTrb (t : Trb) : (LinkTrb.ofTrb t).toTrb t.trbType = t := by
  obtain ⟨p, s, c⟩ := t
  simp only [LinkTrb.toTrb, LinkTrb.ofTrb, Trb.trbType, Trb.mk.injEq, true_and]
  ext i hi
  simp only [BitVec.getElem_append, BitVec.getElem_extractLsb']
  interval_cases i <;> simp

/-- A record is its own view put back under its own type: the view keeps all 128 bits (R140). -/
theorem PlainTrb.toTrb_ofTrb (t : Trb) : (PlainTrb.ofTrb t).toTrb t.trbType = t := by
  obtain ⟨p, s, c⟩ := t
  simp only [PlainTrb.toTrb, PlainTrb.ofTrb, Trb.trbType, Trb.mk.injEq, true_and]
  ext i hi
  simp only [BitVec.getElem_append, BitVec.getElem_extractLsb']
  interval_cases i <;> simp

/-! ## Stamping (spec/42_event_ring.md R237) -/

namespace Machine

@[simp] theorem stamp_parameter (t : Trb) (p : Bool) : (stamp t p).parameter = t.parameter := rfl

@[simp] theorem stamp_status (t : Trb) (p : Bool) : (stamp t p).status = t.status := rfl

/-- Bit 0 of a stamped record is `pcs`. -/
@[simp] theorem stamp_cycle (t : Trb) (p : Bool) : (stamp t p).cycle = p := by
  cases p <;> simp [stamp, Trb.cycle, Config.cycleBit]

/-- Every other bit of `control` is the record's. -/
theorem stamp_control_bit (t : Trb) (p : Bool) (i : Nat) (h : i ≠ 0) :
    (stamp t p).control.getLsbD i = t.control.getLsbD i := by
  obtain ⟨_, _, c⟩ := t
  by_cases hi : i < 32
  · cases p <;> simp only [stamp, BitVec.getLsbD_or, BitVec.getLsbD_and] <;> interval_cases i <;> simp_all
  · rw [BitVec.getLsbD_of_ge _ _ (by omega), BitVec.getLsbD_of_ge _ _ (by omega)]

end Machine
end Sys2Proof
end

