-- ==== Sys2Proof/Laws/State.lean ====
section
/-! SUPPORT. One lemma per field per update of State, so that no proof unfolds a record update. -/
namespace Sys2Proof.Machine

@[simp] theorem putConsumer_params (s : State) (id : InstId) (c : ConsumerRing) :
    (putConsumer s id c).params = s.params := rfl

@[simp] theorem putConsumer_instances (s : State) (id : InstId) (c : ConsumerRing) :
    (putConsumer s id c).instances = putInst s.instances id (.consumer c) := rfl

@[simp] theorem putConsumer_activity (s : State) (id : InstId) (c : ConsumerRing) :
    (putConsumer s id c).activity = s.activity := rfl

@[simp] theorem putConsumer_result (s : State) (id : InstId) (c : ConsumerRing) :
    (putConsumer s id c).result = s.result := rfl

@[simp] theorem putConsumer_requests (s : State) (id : InstId) (c : ConsumerRing) :
    (putConsumer s id c).requests = s.requests := rfl

@[simp] theorem putConsumer_mem (s : State) (id : InstId) (c : ConsumerRing) :
    (putConsumer s id c).mem = s.mem := rfl

@[simp] theorem putConsumer_turns (s : State) (id : InstId) (c : ConsumerRing) :
    (putConsumer s id c).turns = s.turns := rfl

@[simp] theorem putConsumer_serviceFails (s : State) (id : InstId) (c : ConsumerRing) :
    (putConsumer s id c).serviceFails = s.serviceFails := rfl

@[simp] theorem putConsumer_freeCount (s : State) (id : InstId) (c : ConsumerRing) :
    (putConsumer s id c).freeCount = s.freeCount := rfl

@[simp] theorem putEvent_params (s : State) (id : InstId) (r : EventRing) :
    (putEvent s id r).params = s.params := rfl

@[simp] theorem putEvent_instances (s : State) (id : InstId) (r : EventRing) :
    (putEvent s id r).instances = putInst s.instances id (.event r) := rfl

@[simp] theorem putEvent_activity (s : State) (id : InstId) (r : EventRing) :
    (putEvent s id r).activity = s.activity := rfl

@[simp] theorem putEvent_result (s : State) (id : InstId) (r : EventRing) :
    (putEvent s id r).result = s.result := rfl

@[simp] theorem putEvent_requests (s : State) (id : InstId) (r : EventRing) :
    (putEvent s id r).requests = s.requests := rfl

@[simp] theorem putEvent_mem (s : State) (id : InstId) (r : EventRing) :
    (putEvent s id r).mem = s.mem := rfl

@[simp] theorem putEvent_turns (s : State) (id : InstId) (r : EventRing) :
    (putEvent s id r).turns = s.turns := rfl

@[simp] theorem putEvent_serviceFails (s : State) (id : InstId) (r : EventRing) :
    (putEvent s id r).serviceFails = s.serviceFails := rfl

@[simp] theorem putEvent_freeCount (s : State) (id : InstId) (r : EventRing) :
    (putEvent s id r).freeCount = s.freeCount := rfl

@[simp] theorem resetBlock_params (s : State) : (resetBlock s).params = s.params := rfl

@[simp] theorem resetBlock_instances (s : State) : (resetBlock s).instances = [] := rfl

@[simp] theorem resetBlock_activity (s : State) : (resetBlock s).activity = .idle := rfl

@[simp] theorem resetBlock_result (s : State) : (resetBlock s).result = none := rfl

@[simp] theorem resetBlock_requests (s : State) : (resetBlock s).requests = s.requests := rfl

@[simp] theorem resetBlock_mem (s : State) : (resetBlock s).mem = s.mem := rfl

@[simp] theorem resetBlock_turns (s : State) : (resetBlock s).turns = s.turns := rfl

@[simp] theorem resetBlock_serviceFails (s : State) : (resetBlock s).serviceFails = s.serviceFails := rfl

@[simp] theorem resetBlock_freeCount (s : State) : (resetBlock s).freeCount = s.freeCount := rfl

/-- A second reset, or one in the reset state, does nothing. -/
theorem resetBlock_reset : resetBlock State.reset = State.reset := rfl

@[simp] theorem afterWrite_params (s : State) (a : Addr) (t : Trb) :
    (afterWrite s a t).params = s.params := by
  simp only [afterWrite]

@[simp] theorem afterWrite_instances (s : State) (a : Addr) (t : Trb) :
    (afterWrite s a t).instances = s.instances := by
  simp only [afterWrite]

@[simp] theorem afterWrite_activity (s : State) (a : Addr) (t : Trb) :
    (afterWrite s a t).activity = s.activity := by
  simp only [afterWrite]

@[simp] theorem afterWrite_result (s : State) (a : Addr) (t : Trb) :
    (afterWrite s a t).result = s.result := by
  simp only [afterWrite]

@[simp] theorem afterWrite_requests (s : State) (a : Addr) (t : Trb) :
    (afterWrite s a t).requests = s.requests := by
  simp only [afterWrite]

@[simp] theorem afterWrite_mem (s : State) (a : Addr) (t : Trb) :
    (afterWrite s a t).mem = writeBytes s.mem a t.toBytes := by
  simp only [afterWrite]

@[simp] theorem afterWrite_turns (s : State) (a : Addr) (t : Trb) :
    (afterWrite s a t).turns = s.turns := by
  simp only [afterWrite]

@[simp] theorem afterWrite_serviceFails (s : State) (a : Addr) (t : Trb) :
    (afterWrite s a t).serviceFails = s.serviceFails := by
  simp only [afterWrite]

@[simp] theorem afterWrite_freeCount (s : State) (a : Addr) (t : Trb) :
    (afterWrite s a t).freeCount = s.freeCount := by
  simp only [afterWrite]

@[simp] theorem afterFailedWrite_params (s : State) (a : Addr) :
    (afterFailedWrite s a).params = s.params := by
  simp only [afterFailedWrite, Config.recordBytes]

@[simp] theorem afterFailedWrite_instances (s : State) (a : Addr) :
    (afterFailedWrite s a).instances = s.instances := by
  simp only [afterFailedWrite, Config.recordBytes]

@[simp] theorem afterFailedWrite_activity (s : State) (a : Addr) :
    (afterFailedWrite s a).activity = s.activity := by
  simp only [afterFailedWrite, Config.recordBytes]

@[simp] theorem afterFailedWrite_result (s : State) (a : Addr) :
    (afterFailedWrite s a).result = s.result := by
  simp only [afterFailedWrite, Config.recordBytes]

@[simp] theorem afterFailedWrite_requests (s : State) (a : Addr) :
    (afterFailedWrite s a).requests = s.requests := by
  simp only [afterFailedWrite, Config.recordBytes]

@[simp] theorem afterFailedWrite_mem (s : State) (a : Addr) :
    (afterFailedWrite s a).mem = scrambleBytes s.mem a s.freeCount 16 := by
  simp only [afterFailedWrite, Config.recordBytes]

@[simp] theorem afterFailedWrite_turns (s : State) (a : Addr) :
    (afterFailedWrite s a).turns = s.turns := by
  simp only [afterFailedWrite, Config.recordBytes]

@[simp] theorem afterFailedWrite_serviceFails (s : State) (a : Addr) :
    (afterFailedWrite s a).serviceFails = s.serviceFails := by
  simp only [afterFailedWrite, Config.recordBytes]

@[simp] theorem afterFailedWrite_freeCount (s : State) (a : Addr) :
    (afterFailedWrite s a).freeCount = s.freeCount + 16 := by
  simp only [afterFailedWrite, Config.recordBytes]

@[simp] theorem takeTurn_params (s : State) : (takeTurn s).params = s.params := by
  unfold takeTurn; split <;> rfl

@[simp] theorem takeTurn_instances (s : State) : (takeTurn s).instances = s.instances := by
  unfold takeTurn; split <;> rfl

@[simp] theorem takeTurn_activity (s : State) : (takeTurn s).activity = s.activity := by
  unfold takeTurn; split <;> rfl

@[simp] theorem takeTurn_result (s : State) : (takeTurn s).result = s.result := by
  unfold takeTurn; split <;> rfl

@[simp] theorem takeTurn_requests (s : State) : (takeTurn s).requests = s.requests := by
  unfold takeTurn; split <;> rfl

@[simp] theorem takeTurn_turns (s : State) : (takeTurn s).turns = s.turns.tail := by
  unfold takeTurn; split <;> simp_all

@[simp] theorem takeTurn_freeCount (s : State) : (takeTurn s).freeCount = s.freeCount := by
  unfold takeTurn; split <;> rfl

/-! ## The three ways an operation answers -/

theorem deliver_eq_next (s t : State) (r : OpResult) :
    deliver s r = .next t ↔ t = { s with activity := .idle, result := some r } := by
  simp [deliver, eq_comm]

theorem finish_eq_next (s t : State) (p : Payload) :
    finish s p = .next t ↔ t = { s with activity := .idle, result := some (.ok p) } := by
  simp [finish, deliver_eq_next]

theorem raise_eq_next (s t : State) (e : OpError) :
    raise s e = .next t ↔ t = { s with activity := .idle, result := some (.error e) } := by
  simp [raise, deliver_eq_next]

theorem continueWith_eq_next (s t : State) (a : Activity) :
    continueWith s a = .next t ↔ t = { s with activity := a, result := none } := by
  simp [continueWith, eq_comm]

theorem whenIdle_eq_next {s t : State} {k : Result} :
    whenIdle s k = .next t ↔ s.activity = .idle ∧ k = .next t := by
  unfold whenIdle; split <;> simp_all

theorem whenIdle_of_idle {s : State} {k : Result} (h : s.activity = .idle) : whenIdle s k = k := by
  simp [whenIdle, h]

theorem onConsumer_eq_next {s t : State} {id : InstId} {k : ConsumerRing → Result} :
    onConsumer s id k = .next t ↔ ∃ c, findInst s.instances id = some (.consumer c) ∧ k c = .next t := by
  unfold onConsumer; split <;> simp_all

theorem onConsumer_of_find {s : State} {id : InstId} {k : ConsumerRing → Result} {c : ConsumerRing}
    (h : findInst s.instances id = some (.consumer c)) : onConsumer s id k = k c := by
  simp [onConsumer, h]

theorem onEvent_eq_next {s t : State} {id : InstId} {k : EventRing → Result} :
    onEvent s id k = .next t ↔ ∃ r, findInst s.instances id = some (.event r) ∧ k r = .next t := by
  unfold onEvent; split <;> simp_all

theorem onEvent_of_find {s : State} {id : InstId} {k : EventRing → Result} {r : EventRing}
    (h : findInst s.instances id = some (.event r)) : onEvent s id k = k r := by
  simp [onEvent, h]

theorem ownConsumer_eq_next {s t : State} {id : InstId} {k : ConsumerRing → Result} :
    ownConsumer s id k = .next t ↔ ∃ c, findInst s.instances id = some (.consumer c) ∧ k c = .next t := by
  unfold ownConsumer; split <;> simp_all

theorem ownConsumer_of_find {s : State} {id : InstId} {k : ConsumerRing → Result} {c : ConsumerRing}
    (h : findInst s.instances id = some (.consumer c)) : ownConsumer s id k = k c := by
  simp [ownConsumer, h]

end Sys2Proof.Machine
end

