-- ==== Sys2Proof/Laws/RecordMeaning.lean ====
section
/-! SUPPORT. What decoding and executing a record comes to, for all 64 types at once: every fact about a walk or a
refresh is proved from `exec_decodeTrb` and never by cases on the type. -/
namespace Sys2Proof.Machine
open Sys2Proof

/-- A record at the walker: a Link by its own rule, every other record as data (spec/40_trb_types.md R140). -/
def atRecord (t : Trb) (s : State) : Result := if t.isLink then atLink t (toggleOf t) s else atData t (chainOf t) s

theorem trbType_eq_of_toNat {t : Trb} {k : Nat} (h : t.trbType.toNat = k) : t.trbType = BitVec.ofNat 6 k := by
  rw [← h]; simp

theorem toTrb_ofTrb_transfer {t : Trb} {k : Nat} (h : t.trbType.toNat = k) :
    (TransferTrb.ofTrb t).toTrb (BitVec.ofNat 6 k) = t := by
  rw [← trbType_eq_of_toNat h, TransferTrb.toTrb_ofTrb]

theorem toTrb_ofTrb_link {t : Trb} {k : Nat} (h : t.trbType.toNat = k) :
    (LinkTrb.ofTrb t).toTrb (BitVec.ofNat 6 k) = t := by
  rw [← trbType_eq_of_toNat h, LinkTrb.toTrb_ofTrb]

theorem toTrb_ofTrb_plain {t : Trb} {k : Nat} (h : t.trbType.toNat = k) :
    (PlainTrb.ofTrb t).toTrb (BitVec.ofNat 6 k) = t := by
  rw [← trbType_eq_of_toNat h, PlainTrb.toTrb_ofTrb]

theorem atRecord_transfer {t : Trb} {k : Nat} (h : t.trbType.toNat = k) (h1 : 1 ≤ k) (h5 : k ≤ 5) (s : State) :
    atData ((TransferTrb.ofTrb t).toTrb (BitVec.ofNat 6 k)) (TransferTrb.ofTrb t).chain s = atRecord t s := by
  have hl : t.isLink = false := by
    rw [Trb.isLink, beq_eq_false_iff_ne]; intro he; rw [he] at h; simp at h; omega
  have hb : chainBearing t.trbType = true := by simp [chainBearing]; omega
  rw [toTrb_ofTrb_transfer h, atRecord, if_neg (by simp [hl]), chainOf, hb]
  rfl

theorem atRecord_link {t : Trb} (h : t.trbType.toNat = 6) (s : State) :
    atLink ((LinkTrb.ofTrb t).toTrb (BitVec.ofNat 6 6)) (LinkTrb.ofTrb t).toggleCycle s = atRecord t s := by
  have hl : t.isLink = true := by rw [Trb.isLink, trbType_eq_of_toNat h]; rfl
  rw [toTrb_ofTrb_link h, atRecord, if_pos hl, toggleOf, hl]
  rfl

theorem atRecord_plain {t : Trb} {k : Nat} (h : t.trbType.toNat = k) (hk : k = 0 ∨ 7 ≤ k) (s : State) :
    atData ((PlainTrb.ofTrb t).toTrb (BitVec.ofNat 6 k)) false s = atRecord t s := by
  have hl : t.isLink = false := by
    rw [Trb.isLink, beq_eq_false_iff_ne]; intro he; rw [he] at h; simp at h; omega
  have hb : chainBearing t.trbType = false := by simp [chainBearing]; omega
  rw [toTrb_ofTrb_plain h, atRecord, if_neg (by simp [hl]), chainOf, hb]
  rfl

theorem atRecord_toTrb_transfer (t : TransferTrb) (c : BitVec 6) (h1 : chainBearing c = true) (h2 : (c == 6#6) = false)
    (s : State) : atRecord (t.toTrb c) s = atData (t.toTrb c) t.chain s := by
  rw [atRecord, TransferTrb.isLink_toTrb, h2, chainOf, TransferTrb.trbType_toTrb, h1, TransferTrb.chainBit_toTrb]
  rfl

theorem atRecord_toTrb_link (t : LinkTrb) (s : State) : atRecord (t.toTrb 6#6) s = atLink (t.toTrb 6#6) t.toggleCycle s := by
  rw [atRecord, LinkTrb.isLink_toTrb, toggleOf, LinkTrb.isLink_toTrb, LinkTrb.toggleCycleBit_toTrb]
  rfl

theorem atRecord_toTrb_plain (t : PlainTrb) (c : BitVec 6) (h1 : chainBearing c = false) (h2 : (c == 6#6) = false)
    (s : State) : atRecord (t.toTrb c) s = atData (t.toTrb c) false s := by
  rw [atRecord, PlainTrb.isLink_toTrb, h2, chainOf, PlainTrb.trbType_toTrb, h1]
  rfl

/-- The instruction decoded from a record stands for exactly that record (R101, R140: all 128 bits). -/
theorem trb?_decodeTrb (t : Trb) : (decodeTrb t).trb? = some t := by
  have hlt := t.trbType.isLt
  rw [decodeTrb, decodeAs]
  split
  · exact congrArg some (toTrb_ofTrb_plain ‹_›)
  · exact congrArg some (toTrb_ofTrb_transfer ‹_›)
  · exact congrArg some (toTrb_ofTrb_transfer ‹_›)
  · exact congrArg some (toTrb_ofTrb_transfer ‹_›)
  · exact congrArg some (toTrb_ofTrb_transfer ‹_›)
  · exact congrArg some (toTrb_ofTrb_transfer ‹_›)
  · exact congrArg some (toTrb_ofTrb_link ‹_›)
  · exact congrArg some (toTrb_ofTrb_plain ‹_›)
  · exact congrArg some (toTrb_ofTrb_plain ‹_›)
  · exact congrArg some (toTrb_ofTrb_plain ‹_›)
  · exact congrArg some (toTrb_ofTrb_plain ‹_›)
  · exact congrArg some (toTrb_ofTrb_plain ‹_›)
  · exact congrArg some (toTrb_ofTrb_plain ‹_›)
  · exact congrArg some (toTrb_ofTrb_plain ‹_›)
  · exact congrArg some (toTrb_ofTrb_plain ‹_›)
  · exact congrArg some (toTrb_ofTrb_plain ‹_›)
  · exact congrArg some (toTrb_ofTrb_plain ‹_›)
  · exact congrArg some (toTrb_ofTrb_plain ‹_›)
  · exact congrArg some (toTrb_ofTrb_plain ‹_›)
  · exact congrArg some (toTrb_ofTrb_plain ‹_›)
  · exact congrArg some (toTrb_ofTrb_plain ‹_›)
  · exact congrArg some (toTrb_ofTrb_plain ‹_›)
  · exact congrArg some (toTrb_ofTrb_plain ‹_›)
  · exact congrArg some (toTrb_ofTrb_plain ‹_›)
  · exact congrArg some (toTrb_ofTrb_plain ‹_›)
  · exact congrArg some (toTrb_ofTrb_plain ‹_›)
  · exact congrArg some (toTrb_ofTrb_plain ‹_›)
  · exact congrArg some (toTrb_ofTrb_plain ‹_›)
  · exact congrArg some (toTrb_ofTrb_plain ‹_›)
  · exact congrArg some (toTrb_ofTrb_plain ‹_›)
  · exact congrArg some (toTrb_ofTrb_plain ‹_›)
  · exact congrArg some (toTrb_ofTrb_plain ‹_›)
  · exact congrArg some (toTrb_ofTrb_plain ‹_›)
  · exact congrArg some (toTrb_ofTrb_plain ‹_›)
  · exact congrArg some (toTrb_ofTrb_plain ‹_›)
  · exact congrArg some (toTrb_ofTrb_plain ‹_›)
  · exact congrArg some (toTrb_ofTrb_plain ‹_›)
  · exact congrArg some (toTrb_ofTrb_plain ‹_›)
  · exact congrArg some (toTrb_ofTrb_plain ‹_›)
  · exact congrArg some (toTrb_ofTrb_plain ‹_›)
  · exact congrArg some (toTrb_ofTrb_plain ‹_›)
  · exact congrArg some (toTrb_ofTrb_plain ‹_›)
  · exact congrArg some (toTrb_ofTrb_plain ‹_›)
  · exact congrArg some (toTrb_ofTrb_plain ‹_›)
  · exact congrArg some (toTrb_ofTrb_plain ‹_›)
  · exact congrArg some (toTrb_ofTrb_plain ‹_›)
  · exact congrArg some (toTrb_ofTrb_plain ‹_›)
  · exact congrArg some (toTrb_ofTrb_plain ‹_›)
  · exact congrArg some (toTrb_ofTrb_plain ‹_›)
  · exact congrArg some (toTrb_ofTrb_plain ‹_›)
  · exact congrArg some (toTrb_ofTrb_plain ‹_›)
  · exact congrArg some (toTrb_ofTrb_plain ‹_›)
  · exact congrArg some (toTrb_ofTrb_plain ‹_›)
  · exact congrArg some (toTrb_ofTrb_plain ‹_›)
  · exact congrArg some (toTrb_ofTrb_plain ‹_›)
  · exact congrArg some (toTrb_ofTrb_plain ‹_›)
  · exact congrArg some (toTrb_ofTrb_plain ‹_›)
  · exact congrArg some (toTrb_ofTrb_plain ‹_›)
  · exact congrArg some (toTrb_ofTrb_plain ‹_›)
  · exact congrArg some (toTrb_ofTrb_plain ‹_›)
  · exact congrArg some (toTrb_ofTrb_plain ‹_›)
  · exact congrArg some (toTrb_ofTrb_plain ‹_›)
  · exact congrArg some (toTrb_ofTrb_plain ‹_›)
  · simp only [imp_false] at *
    exact congrArg some (toTrb_ofTrb_plain (k := 63) (by omega))

/-- Executing the instruction decoded from a record does what the record does at the walker. -/
theorem exec_decodeTrb (t : Trb) (s : State) : exec (decodeTrb t) s = atRecord t s := by
  have hlt := t.trbType.isLt
  rw [decodeTrb, decodeAs]
  split
  · exact atRecord_plain ‹_› (by omega) s
  · exact atRecord_transfer ‹_› (by omega) (by omega) s
  · exact atRecord_transfer ‹_› (by omega) (by omega) s
  · exact atRecord_transfer ‹_› (by omega) (by omega) s
  · exact atRecord_transfer ‹_› (by omega) (by omega) s
  · exact atRecord_transfer ‹_› (by omega) (by omega) s
  · exact atRecord_link ‹_› s
  · exact atRecord_plain ‹_› (by omega) s
  · exact atRecord_plain ‹_› (by omega) s
  · exact atRecord_plain ‹_› (by omega) s
  · exact atRecord_plain ‹_› (by omega) s
  · exact atRecord_plain ‹_› (by omega) s
  · exact atRecord_plain ‹_› (by omega) s
  · exact atRecord_plain ‹_› (by omega) s
  · exact atRecord_plain ‹_› (by omega) s
  · exact atRecord_plain ‹_› (by omega) s
  · exact atRecord_plain ‹_› (by omega) s
  · exact atRecord_plain ‹_› (by omega) s
  · exact atRecord_plain ‹_› (by omega) s
  · exact atRecord_plain ‹_› (by omega) s
  · exact atRecord_plain ‹_› (by omega) s
  · exact atRecord_plain ‹_› (by omega) s
  · exact atRecord_plain ‹_› (by omega) s
  · exact atRecord_plain ‹_› (by omega) s
  · exact atRecord_plain ‹_› (by omega) s
  · exact atRecord_plain ‹_› (by omega) s
  · exact atRecord_plain ‹_› (by omega) s
  · exact atRecord_plain ‹_› (by omega) s
  · exact atRecord_plain ‹_› (by omega) s
  · exact atRecord_plain ‹_› (by omega) s
  · exact atRecord_plain ‹_› (by omega) s
  · exact atRecord_plain ‹_› (by omega) s
  · exact atRecord_plain ‹_› (by omega) s
  · exact atRecord_plain ‹_› (by omega) s
  · exact atRecord_plain ‹_› (by omega) s
  · exact atRecord_plain ‹_› (by omega) s
  · exact atRecord_plain ‹_› (by omega) s
  · exact atRecord_plain ‹_› (by omega) s
  · exact atRecord_plain ‹_› (by omega) s
  · exact atRecord_plain ‹_› (by omega) s
  · exact atRecord_plain ‹_› (by omega) s
  · exact atRecord_plain ‹_› (by omega) s
  · exact atRecord_plain ‹_› (by omega) s
  · exact atRecord_plain ‹_› (by omega) s
  · exact atRecord_plain ‹_› (by omega) s
  · exact atRecord_plain ‹_› (by omega) s
  · exact atRecord_plain ‹_› (by omega) s
  · exact atRecord_plain ‹_› (by omega) s
  · exact atRecord_plain ‹_› (by omega) s
  · exact atRecord_plain ‹_› (by omega) s
  · exact atRecord_plain ‹_› (by omega) s
  · exact atRecord_plain ‹_› (by omega) s
  · exact atRecord_plain ‹_› (by omega) s
  · exact atRecord_plain ‹_› (by omega) s
  · exact atRecord_plain ‹_› (by omega) s
  · exact atRecord_plain ‹_› (by omega) s
  · exact atRecord_plain ‹_› (by omega) s
  · exact atRecord_plain ‹_› (by omega) s
  · exact atRecord_plain ‹_› (by omega) s
  · exact atRecord_plain ‹_› (by omega) s
  · exact atRecord_plain ‹_› (by omega) s
  · exact atRecord_plain ‹_› (by omega) s
  · exact atRecord_plain ‹_› (by omega) s
  · simp only [imp_false] at *
    exact atRecord_plain (k := 63) (by omega) (by omega) s

/-- The converse for the encoder: executing a TRB instruction is meeting the record it stands for. -/
theorem exec_of_trb? {i : Instr} {t : Trb} (h : i.trb? = some t) (s : State) : exec i s = atRecord t s := by
  cases i <;> simp only [Instr.trb?, Option.some.injEq, reduceCtorEq] at h <;> subst h
  · exact (atRecord_toTrb_plain _ _ rfl rfl _).symm
  · exact (atRecord_toTrb_transfer _ _ rfl rfl _).symm
  · exact (atRecord_toTrb_transfer _ _ rfl rfl _).symm
  · exact (atRecord_toTrb_transfer _ _ rfl rfl _).symm
  · exact (atRecord_toTrb_transfer _ _ rfl rfl _).symm
  · exact (atRecord_toTrb_transfer _ _ rfl rfl _).symm
  · exact (atRecord_toTrb_link _ _).symm
  · exact (atRecord_toTrb_plain _ _ rfl rfl _).symm
  · exact (atRecord_toTrb_plain _ _ rfl rfl _).symm
  · exact (atRecord_toTrb_plain _ _ rfl rfl _).symm
  · exact (atRecord_toTrb_plain _ _ rfl rfl _).symm
  · exact (atRecord_toTrb_plain _ _ rfl rfl _).symm
  · exact (atRecord_toTrb_plain _ _ rfl rfl _).symm
  · exact (atRecord_toTrb_plain _ _ rfl rfl _).symm
  · exact (atRecord_toTrb_plain _ _ rfl rfl _).symm
  · exact (atRecord_toTrb_plain _ _ rfl rfl _).symm
  · exact (atRecord_toTrb_plain _ _ rfl rfl _).symm
  · exact (atRecord_toTrb_plain _ _ rfl rfl _).symm
  · exact (atRecord_toTrb_plain _ _ rfl rfl _).symm
  · exact (atRecord_toTrb_plain _ _ rfl rfl _).symm
  · exact (atRecord_toTrb_plain _ _ rfl rfl _).symm
  · exact (atRecord_toTrb_plain _ _ rfl rfl _).symm
  · exact (atRecord_toTrb_plain _ _ rfl rfl _).symm
  · exact (atRecord_toTrb_plain _ _ rfl rfl _).symm
  · exact (atRecord_toTrb_plain _ _ rfl rfl _).symm
  · exact (atRecord_toTrb_plain _ _ rfl rfl _).symm
  · exact (atRecord_toTrb_plain _ _ rfl rfl _).symm
  · exact (atRecord_toTrb_plain _ _ rfl rfl _).symm
  · exact (atRecord_toTrb_plain _ _ rfl rfl _).symm
  · exact (atRecord_toTrb_plain _ _ rfl rfl _).symm
  · exact (atRecord_toTrb_plain _ _ rfl rfl _).symm
  · exact (atRecord_toTrb_plain _ _ rfl rfl _).symm
  · exact (atRecord_toTrb_plain _ _ rfl rfl _).symm
  · exact (atRecord_toTrb_plain _ _ rfl rfl _).symm
  · exact (atRecord_toTrb_plain _ _ rfl rfl _).symm
  · exact (atRecord_toTrb_plain _ _ rfl rfl _).symm
  · exact (atRecord_toTrb_plain _ _ rfl rfl _).symm
  · exact (atRecord_toTrb_plain _ _ rfl rfl _).symm
  · exact (atRecord_toTrb_plain _ _ rfl rfl _).symm
  · exact (atRecord_toTrb_plain _ _ rfl rfl _).symm
  · exact (atRecord_toTrb_plain _ _ rfl rfl _).symm
  · exact (atRecord_toTrb_plain _ _ rfl rfl _).symm
  · exact (atRecord_toTrb_plain _ _ rfl rfl _).symm
  · exact (atRecord_toTrb_plain _ _ rfl rfl _).symm
  · exact (atRecord_toTrb_plain _ _ rfl rfl _).symm
  · exact (atRecord_toTrb_plain _ _ rfl rfl _).symm
  · exact (atRecord_toTrb_plain _ _ rfl rfl _).symm
  · exact (atRecord_toTrb_plain _ _ rfl rfl _).symm
  · exact (atRecord_toTrb_plain _ _ rfl rfl _).symm
  · exact (atRecord_toTrb_plain _ _ rfl rfl _).symm
  · exact (atRecord_toTrb_plain _ _ rfl rfl _).symm
  · exact (atRecord_toTrb_plain _ _ rfl rfl _).symm
  · exact (atRecord_toTrb_plain _ _ rfl rfl _).symm
  · exact (atRecord_toTrb_plain _ _ rfl rfl _).symm
  · exact (atRecord_toTrb_plain _ _ rfl rfl _).symm
  · exact (atRecord_toTrb_plain _ _ rfl rfl _).symm
  · exact (atRecord_toTrb_plain _ _ rfl rfl _).symm
  · exact (atRecord_toTrb_plain _ _ rfl rfl _).symm
  · exact (atRecord_toTrb_plain _ _ rfl rfl _).symm
  · exact (atRecord_toTrb_plain _ _ rfl rfl _).symm
  · exact (atRecord_toTrb_plain _ _ rfl rfl _).symm
  · exact (atRecord_toTrb_plain _ _ rfl rfl _).symm
  · exact (atRecord_toTrb_plain _ _ rfl rfl _).symm
  · exact (atRecord_toTrb_plain _ _ rfl rfl _).symm

end Sys2Proof.Machine
end

