-- ==== Sys2Proof/Laws/Walk.lean ====
section
/-! SUPPORT. Everything a record can do to the operation at it, said once: the cases of `atRecord`. -/
namespace Sys2Proof.Machine
open Sys2Proof

theorem memoryKept_of_eq {s t : State} (h : t.mem = s.mem) (h' : t.freeCount = s.freeCount) : memoryKept s t :=
  ⟨fun a => by rw [h], h'⟩

@[simp] theorem advanceIndex_kind (c : ConsumerRing) : (advanceIndex c).kind = c.kind := rfl
@[simp] theorem advanceIndex_base (c : ConsumerRing) : (advanceIndex c).base = c.base := rfl
@[simp] theorem advanceIndex_shadow (c : ConsumerRing) : (advanceIndex c).shadow = c.shadow := rfl
@[simp] theorem advanceIndex_ccs (c : ConsumerRing) : (advanceIndex c).ccs = c.ccs := rfl
@[simp] theorem advanceIndex_index (c : ConsumerRing) :
    (advanceIndex c).dequeueIndex = (c.dequeueIndex + 1) % c.shadow.length := rfl
@[simp] theorem passLink_kind (c : ConsumerRing) (b : Bool) : (passLink c b).kind = c.kind := rfl
@[simp] theorem passLink_base (c : ConsumerRing) (b : Bool) : (passLink c b).base = c.base := rfl
@[simp] theorem passLink_shadow (c : ConsumerRing) (b : Bool) : (passLink c b).shadow = c.shadow := rfl
@[simp] theorem passLink_ccs (c : ConsumerRing) (b : Bool) : (passLink c b).ccs = xor c.ccs b := by
  cases b <;> simp [passLink, ccsAfterLink]
@[simp] theorem passLink_index (c : ConsumerRing) (b : Bool) :
    (passLink c b).dequeueIndex = (c.dequeueIndex + 1) % c.shadow.length := rfl
@[simp] theorem rollback_kind (c : ConsumerRing) (g : Gather) : (rollback c g).kind = c.kind := rfl
@[simp] theorem rollback_base (c : ConsumerRing) (g : Gather) : (rollback c g).base = c.base := rfl
@[simp] theorem rollback_shadow (c : ConsumerRing) (g : Gather) : (rollback c g).shadow = c.shadow := rfl
@[simp] theorem rollback_ccs (c : ConsumerRing) (g : Gather) : (rollback c g).ccs = g.savedCcs := rfl
@[simp] theorem rollback_index (c : ConsumerRing) (g : Gather) : (rollback c g).dequeueIndex = g.savedIndex := rfl

@[simp] theorem available_eq_true {t : Trb} {b : Bool} : available t b = true ↔ t.cycle = b := by simp [available]

/-- How a step at a record leaves the state: the environment and memory untouched, the activity, the result and the set
of instances as given. -/
def State.with3 (s : State) (m : Instances) (a : Activity) (r : Option OpResult) : State :=
  { s with instances := m, activity := a, result := r }

@[simp] theorem with3_params (s : State) (m a r) : (s.with3 m a r).params = s.params := rfl
@[simp] theorem with3_instances (s : State) (m a r) : (s.with3 m a r).instances = m := rfl
@[simp] theorem with3_activity (s : State) (m a r) : (s.with3 m a r).activity = a := rfl
@[simp] theorem with3_result (s : State) (m a r) : (s.with3 m a r).result = r := rfl
@[simp] theorem with3_mem (s : State) (m a r) : (s.with3 m a r).mem = s.mem := rfl
@[simp] theorem with3_requests (s : State) (m a r) : (s.with3 m a r).requests = s.requests := rfl
@[simp] theorem with3_turns (s : State) (m a r) : (s.with3 m a r).turns = s.turns := rfl
@[simp] theorem with3_serviceFails (s : State) (m a r) : (s.with3 m a r).serviceFails = s.serviceFails := rfl
@[simp] theorem with3_freeCount (s : State) (m a r) : (s.with3 m a r).freeCount = s.freeCount := rfl

theorem with3_sameEnvironment (s : State) (m a r) : sameEnvironment s (s.with3 m a r) := ⟨rfl, rfl, rfl, rfl⟩
theorem with3_memoryKept (s : State) (m a r) : memoryKept s (s.with3 m a r) := ⟨fun _ => rfl, rfl⟩

theorem finish_with3 (s : State) (p : Payload) : finish s p = .next (s.with3 s.instances .idle (some (.ok p))) := rfl
theorem raise_with3 (s : State) (e : OpError) : raise s e = .next (s.with3 s.instances .idle (some (.error e))) := rfl
theorem continueWith_with3 (s : State) (a : Activity) : continueWith s a = .next (s.with3 s.instances a none) := rfl

theorem finish_putConsumer (s : State) (id : InstId) (c : ConsumerRing) (p : Payload) :
    finish (putConsumer s id c) p = .next (s.with3 (putInst s.instances id (.consumer c)) .idle (some (.ok p))) := rfl
theorem raise_putConsumer (s : State) (id : InstId) (c : ConsumerRing) (e : OpError) :
    raise (putConsumer s id c) e
      = .next (s.with3 (putInst s.instances id (.consumer c)) .idle (some (.error e))) := rfl
theorem raise_putConsumer_twice (s : State) (id : InstId) (c d : ConsumerRing) (e : OpError) :
    raise (putConsumer (putConsumer s id c) id d) e
      = .next (s.with3 (putInst s.instances id (.consumer d)) .idle (some (.error e))) := by
  simp [raise, deliver, putConsumer, State.with3]
theorem continueWith_putConsumer (s : State) (id : InstId) (c : ConsumerRing) (a : Activity) :
    continueWith (putConsumer s id c) a
      = .next (s.with3 (putInst s.instances id (.consumer c)) a none) := rfl

/-! ## A refresh at a record -/

theorem atRecord_refresh_data {s : State} {t : Trb} {id : InstId} {l : List Trb} {a : Addr}
    (hl : t.isLink = false) (hs : s.activity = .refresh id l a) :
    atRecord t s = .next (s.with3 s.instances (.refresh id (l ++ [t]) (nextSlotAddr a)) none) := by
  simp [atRecord, hl, atData, hs, continueWith_with3]

theorem atRecord_refresh_link {s : State} {t : Trb} {id : InstId} {l : List Trb} {a : Addr} {c : ConsumerRing}
    (hl : t.isLink = true) (hs : s.activity = .refresh id l a) (hc : findInst s.instances id = some (.consumer c)) :
    atRecord t s = if linkTarget t.parameter = c.base then
        .next (s.with3 (putInst s.instances id (.consumer { c with shadow := l ++ [t] })) .idle (some (.ok .nothing)))
      else .next (s.with3 s.instances (.refresh id (l ++ [t]) (linkTarget t.parameter)) none) := by
  simp only [atRecord, hl, if_true, atLink, hs, ownConsumer_of_find hc]
  split
  · simp [closeRing, hl, finish_putConsumer]
  · rfl

/-! ## A walk at a record -/

/-- The end of a walk with nothing more available, the ring being at `c`. -/
theorem walkEmpty_none (s : State) (id : InstId) (c : ConsumerRing) :
    walkEmpty s id c none = .next (s.with3 s.instances .idle (some (.ok (.trb none)))) := rfl

theorem walkEmpty_noWork (s : State) (id : InstId) (c : ConsumerRing) {g : Gather} (h : g.item = []) :
    walkEmpty s id c (some g) = .next (s.with3 s.instances .idle (some (.ok .noWork))) := by
  simp [walkEmpty, h, finish_with3]

theorem walkEmpty_incomplete (s : State) (id : InstId) (c : ConsumerRing) {g : Gather} (h : g.item ≠ []) :
    walkEmpty s id c (some g)
      = .next (s.with3 (putInst s.instances id (.consumer (rollback c g))) .idle (some (.error .eIncomplete))) := by
  obtain ⟨x, y, hxy⟩ := List.exists_cons_of_ne_nil h
  simp [walkEmpty, hxy, raise_putConsumer]

theorem atRecord_unavailable {s : State} {t : Trb} {id : InstId} {start : Nat} {gather : Option Gather}
    {c : ConsumerRing} (hs : s.activity = .dequeue id start gather)
    (hc : findInst s.instances id = some (.consumer c)) (ht : t.cycle ≠ c.ccs) :
    atRecord t s = walkEmpty s id c gather := by
  unfold atRecord
  split <;> simp [atData, atLink, hs, ownConsumer_of_find hc, ht]

theorem atRecord_walk_data {s : State} {t : Trb} {id : InstId} {start : Nat} {gather : Option Gather}
    {c : ConsumerRing} (hs : s.activity = .dequeue id start gather)
    (hc : findInst s.instances id = some (.consumer c)) (ht : t.cycle = c.ccs) (hl : t.isLink = false) :
    atRecord t s
      = walkReturns (putConsumer s id (advanceIndex c)) id (advanceIndex c) gather t (chainOf t) := by
  simp [atRecord, hl, atData, hs, ownConsumer_of_find hc, ht]

theorem atRecord_walk_link {s : State} {t : Trb} {id : InstId} {start : Nat} {gather : Option Gather}
    {c : ConsumerRing} (hs : s.activity = .dequeue id start gather)
    (hc : findInst s.instances id = some (.consumer c)) (ht : t.cycle = c.ccs) (hl : t.isLink = true) :
    atRecord t s = if (c.dequeueIndex + 1) % c.shadow.length = start then
        walkEmpty (putConsumer s id (passLink c (toggleOf t))) id (passLink c (toggleOf t)) gather
      else .next (s.with3 (putInst s.instances id (.consumer (passLink c (toggleOf t))))
        (.dequeue id start (countPassed gather)) none) := by
  simp [atRecord, hl, atLink, hs, ownConsumer_of_find hc, ht, continueWith_putConsumer]
  rfl

theorem walkReturns_trb (s : State) (id : InstId) (c : ConsumerRing) (t : Trb) (b : Bool) :
    walkReturns s id c none t b = .next (s.with3 s.instances .idle (some (.ok (.trb (some t))))) := rfl

theorem walkReturns_chain (s : State) (id : InstId) (c : ConsumerRing) (g : Gather) (t : Trb) :
    walkReturns s id c (some g) t true = if c.shadow.length ≤ g.passed + 1 then
        .next (s.with3 (putInst s.instances id (.consumer (rollback c g))) .idle (some (.error .eCyclicIncomplete)))
      else .next (s.with3 s.instances
        (.dequeue id c.dequeueIndex (some { g with item := g.item ++ [t], passed := g.passed + 1 })) none) := by
  simp [walkReturns, raise_putConsumer, continueWith_with3]

/-- What the completed work item comes to. -/
def itemResult (kind : RingKind) (item : List Trb) : OpResult :=
  match kind with
  | .command =>
    match commandDescriptor item with
    | .ok d => .ok (.item d)
    | .error e => .error e
  | .transfer => .ok (.item (transferDescriptor item))

theorem walkReturns_last (s : State) (id : InstId) (c : ConsumerRing) (g : Gather) (t : Trb) :
    walkReturns s id c (some g) t false
      = .next (s.with3 s.instances .idle (some (itemResult c.kind (g.item ++ [t])))) := by
  simp only [walkReturns, completeItem, itemResult, Bool.false_eq_true, if_false]
  cases c.kind with
  | command => dsimp only; cases commandDescriptor (g.item ++ [t]) <;> rfl
  | transfer => rfl

/-! ## All cases at once -/

/-- What a record can do to the ring `c` of the operation at it: the ring it leaves and the result it may deliver. -/
structure RecordEffect (s : State) (t : Trb) (id : InstId) (c c' : ConsumerRing) (r : Option OpResult) : Prop where
  kind : c'.kind = c.kind
  base : c'.base = c.base
  shadow : c'.shadow = c.shadow ∨ ∃ l a, s.activity = .refresh id l a ∧ closesRing c.base t = true ∧
    c'.shadow = l ++ [t] ∧ c'.dequeueIndex = c.dequeueIndex ∧ c'.ccs = c.ccs
  ccs : c'.ccs = c.ccs ∨ ∃ start gather, s.activity = .dequeue id start gather ∧
    ((t.isLink = true ∧ toggleOf t = true ∧ t.cycle = c.ccs) ∨
     (∃ g, gather = some g ∧ c'.dequeueIndex = g.savedIndex ∧ c'.ccs = g.savedCcs ∧
       (r = some (.error .eIncomplete) ∨ r = some (.error .eCyclicIncomplete))))

theorem itemResult_ne_missingLink (k : RingKind) (l : List Trb) : itemResult k l ≠ .error .eMissingLink := by
  cases k with
  | transfer => simp [itemResult]
  | command =>
    match l with
    | [] => simp [itemResult, commandDescriptor]
    | [_] => simp [itemResult, commandDescriptor]
    | _ :: _ :: _ => simp [itemResult, commandDescriptor]

/-- Everything a record can do: the environment and memory are untouched, at most the ring of the operation in progress
is written, and `E_MISSING_LINK` is not the result. -/
theorem atRecord_next {s u : State} {t : Trb} (h : atRecord t s = .next u) :
    ∃ m a r, u = s.with3 m a r ∧ r ≠ some (.error .eMissingLink) ∧
      (m = s.instances ∨ ∃ id c c', s.activity.instId = some id ∧ findInst s.instances id = some (.consumer c) ∧
        m = putInst s.instances id (.consumer c') ∧ RecordEffect s t id c c' r) := by
  cases hs : s.activity with
  | idle => unfold atRecord at h; split at h <;> simp [atLink, atData, hs] at h
  | readTable => unfold atRecord at h; split at h <;> simp [atLink, atData, hs] at h
  | refresh id l a =>
    cases hl : t.isLink with
    | false =>
      rw [atRecord_refresh_data hl hs] at h; cases h
      exact ⟨_, _, _, rfl, by simp, .inl rfl⟩
    | true =>
      have hc : ∃ c, findInst s.instances id = some (.consumer c) := by
        rw [atRecord, if_pos hl, atLink, hs] at h
        obtain ⟨c, hc, -⟩ := ownConsumer_eq_next.1 h
        exact ⟨c, hc⟩
      obtain ⟨c, hc⟩ := hc
      rw [atRecord_refresh_link hl hs hc] at h
      split at h <;> cases h
      · rename_i ht
        exact ⟨_, _, _, rfl, by simp, .inr ⟨id, c, _, rfl, hc, rfl, rfl, rfl,
          .inr ⟨l, a, hs, by simp [closesRing, hl, ht], rfl, rfl, rfl⟩, .inl rfl⟩⟩
      · exact ⟨_, _, _, rfl, by simp, .inl rfl⟩
  | dequeue id start gather =>
    have hc : ∃ c, findInst s.instances id = some (.consumer c) := by
      unfold atRecord atLink atData at h
      rw [hs] at h
      split at h <;> (obtain ⟨c, hc, -⟩ := ownConsumer_eq_next.1 h; exact ⟨c, hc⟩)
    obtain ⟨c, hc⟩ := hc
    have empty : ∀ (s' : State) (c' : ConsumerRing), walkEmpty s' id c' gather = .next u →
        (u = s'.with3 s'.instances .idle u.result ∧ u.result ≠ some (.error .eMissingLink)) ∨
        (∃ g, gather = some g ∧ u = s'.with3 (putInst s'.instances id (.consumer (rollback c' g))) .idle
          (some (.error .eIncomplete))) := by
      intro s' c' he
      cases gather with
      | none => rw [walkEmpty_none] at he; cases he; exact .inl ⟨rfl, by simp⟩
      | some g =>
        by_cases hg : g.item = []
        · rw [walkEmpty_noWork _ _ _ hg] at he; cases he; exact .inl ⟨rfl, by simp⟩
        · rw [walkEmpty_incomplete _ _ _ hg] at he; cases he; exact .inr ⟨g, rfl, rfl⟩
    by_cases ht : t.cycle = c.ccs
    · cases hl : t.isLink with
      | false =>
        rw [atRecord_walk_data hs hc ht hl] at h
        cases gather with
        | none =>
          rw [walkReturns_trb] at h; cases h
          exact ⟨_, _, _, rfl, by simp, .inr ⟨id, c, _, rfl, hc, rfl, rfl, rfl, .inl rfl, .inl rfl⟩⟩
        | some g =>
          cases hch : chainOf t with
          | false =>
            rw [hch, walkReturns_last] at h; cases h
            refine ⟨_, _, _, rfl, ?_, .inr ⟨id, c, _, rfl, hc, rfl, rfl, rfl, .inl rfl, .inl rfl⟩⟩
            simpa using itemResult_ne_missingLink _ _
          | true =>
            rw [hch, walkReturns_chain] at h
            split at h <;> cases h
            · refine ⟨putInst s.instances id (.consumer (rollback (advanceIndex c) g)), .idle,
                some (.error .eCyclicIncomplete), ?_, by simp, .inr ⟨id, c, _, rfl, hc, rfl, rfl, rfl, .inl rfl, .inr
                ⟨start, _, hs, .inr ⟨g, rfl, rfl, rfl, .inr rfl⟩⟩⟩⟩
              simp [State.with3, putConsumer]
            · exact ⟨_, _, _, rfl, by simp, .inr ⟨id, c, _, rfl, hc, rfl, rfl, rfl, .inl rfl, .inl rfl⟩⟩
      | true =>
        have toggled : ∀ r, (passLink c (toggleOf t)).ccs = c.ccs ∨ ∃ start' gather', s.activity = .dequeue id start' gather' ∧
            ((t.isLink = true ∧ toggleOf t = true ∧ t.cycle = c.ccs) ∨
             (∃ g, gather' = some g ∧ (passLink c (toggleOf t)).dequeueIndex = g.savedIndex ∧
               (passLink c (toggleOf t)).ccs = g.savedCcs ∧
               (r = some (OpResult.error .eIncomplete) ∨ r = some (.error .eCyclicIncomplete)))) := by
          intro r
          cases htog : toggleOf t with
          | false => left; simp
          | true => exact .inr ⟨start, gather, hs, .inl ⟨hl, rfl, ht⟩⟩
        rw [atRecord_walk_link hs hc ht hl] at h
        split at h
        · rcases empty _ _ h with ⟨hu, hm⟩ | ⟨g, hg, hu⟩
          · refine ⟨putInst s.instances id (.consumer (passLink c (toggleOf t))), .idle, u.result, ?_, hm,
              .inr ⟨id, c, _, rfl, hc, rfl, rfl, rfl, .inl rfl, hs ▸ toggled _⟩⟩
            rw [hu]; rfl
          · refine ⟨putInst s.instances id (.consumer (rollback (passLink c (toggleOf t)) g)), .idle,
              some (.error .eIncomplete), ?_, by simp, .inr ⟨id, c, _, rfl, hc, rfl, rfl, rfl, .inl rfl, .inr
              ⟨start, gather, hs, .inr ⟨g, hg, rfl, rfl, .inl rfl⟩⟩⟩⟩
            rw [hu]; simp [State.with3, putConsumer]
        · cases h
          exact ⟨_, _, _, rfl, by simp, .inr ⟨id, c, _, rfl, hc, rfl, rfl, rfl, .inl rfl, toggled _⟩⟩
    · rw [atRecord_unavailable hs hc ht] at h
      rcases empty _ _ h with ⟨hu, hm⟩ | ⟨g, hg, hu⟩
      · exact ⟨_, _, _, hu, hm, .inl rfl⟩
      · exact ⟨_, _, _, hu, by simp, .inr ⟨id, c, _, rfl, hc, rfl, rfl, rfl, .inl rfl, .inr
          ⟨start, gather, hs, .inr ⟨g, hg, rfl, rfl, .inl rfl⟩⟩⟩⟩

end Sys2Proof.Machine
end

