-- ==== Sys2Proof/Laws/Operations.lean ====
section
/-! SUPPORT. Everything an operation of the request port can do when it answers a next state, said once, everything an
idle engine refuses, and everything a step can do. -/
namespace Sys2Proof.Machine
open Sys2Proof

/-- The next states of a request: what it leaves of the state, by its kind of effect. -/
inductive OperationEffect (s : State) : Instr → State → Prop where
  /-- a result is delivered and nothing else is written -/
  | answer (i : Instr) (r : OpResult) (h : r ≠ .error .eMissingLink) :
      OperationEffect s i (s.with3 s.instances .idle (some r))
  | create (id : InstId) (kind : RingKind) (base : Addr) :
      OperationEffect s (.crCreate id kind base)
        (s.with3 (putInst s.instances id (.consumer (newConsumer kind base))) .idle (some (.ok .nothing)))
  | refresh (id : InstId) (c : ConsumerRing) (hc : findInst s.instances id = some (.consumer c)) :
      OperationEffect s (.crUpdateFromGuest id) (s.with3 s.instances (.refresh id [] c.base) none)
  | reset (id : InstId) (pointer : Addr) (c : ConsumerRing) (hc : findInst s.instances id = some (.consumer c)) :
      OperationEffect s (.crReset id pointer)
        (s.with3 (putInst s.instances id (.consumer { c with dequeueIndex := resetIndex c.base pointer })) .idle
          (some (.ok .nothing)))
  | walk (id : InstId) (c : ConsumerRing) (hc : findInst s.instances id = some (.consumer c))
      (hi : c.dequeueIndex < c.shadow.length) :
      OperationEffect s (.crDequeueTrb id) (s.with3 s.instances (.dequeue id c.dequeueIndex none) none)
  | workItem (id : InstId) (c : ConsumerRing) (hc : findInst s.instances id = some (.consumer c))
      (hi : c.dequeueIndex < c.shadow.length) :
      OperationEffect s (.crDequeueWorkItem id)
        (s.with3 s.instances (.dequeue id c.dequeueIndex (some (startGather c))) none)
  | table (i : Instr) (id : InstId) (purpose : TablePurpose) (erstba : Addr) (erstsz : Nat) (hn : 0 < erstsz)
      (hi : i.instId = some id)
      (hp : purpose = .update → ∃ r, findInst s.instances id = some (.event r)) :
      OperationEffect s i (s.with3 s.instances (.readTable id purpose erstba erstsz []) none)
  | acknowledge (id : InstId) (addr : Addr) (r : EventRing) (hr : findInst s.instances id = some (.event r)) :
      OperationEffect s (.erUpdateDequeuePointer id addr)
        (s.with3 (putInst s.instances id (.event { r with dequeuePointer := some addr })) .idle (some (.ok .nothing)))
  | accepted (id : InstId) (event : Trb) (r r' : EventRing) (d : Addr)
      (hr : findInst s.instances id = some (.event r)) (hd : r.dequeuePointer = some d) (hf : nextSlot r ≠ some d)
      (ha : advance r = some r') :
      OperationEffect s (.erEnqueue id event)
        ((afterWrite s r.enqueuePointer (stamp event r.pcs)).with3 (putInst s.instances id (.event r')) .idle
          (some (.ok .accepted)))
  | full (id : InstId) (event : Trb) (r r' : EventRing) (d : Addr)
      (hr : findInst s.instances id = some (.event r)) (hd : r.dequeuePointer = some d) (hf : nextSlot r = some d)
      (ha : advance r = some r') :
      OperationEffect s (.erEnqueue id event)
        ((afterWrite s r.enqueuePointer (stamp erfTrb r.pcs)).with3
          (putInst s.instances id (.event { r' with dequeuePointer := none })) .idle
          (some (.error (.eventRingFull event true))))
  | failed (id : InstId) (event : Trb) (r : EventRing) (hr : findInst s.instances id = some (.event r)) :
      OperationEffect s (.erEnqueue id event)
        ((afterFailedWrite s r.enqueuePointer).with3 s.instances .idle (some (.error (.eMem r.enqueuePointer))))

theorem startTable_next {s t : State} {id : InstId} {purpose : TablePurpose} {a : Addr} {n : Nat} {i : Instr}
    (hi : i.instId = some id) (hp : purpose = .update → ∃ r, findInst s.instances id = some (.event r))
    (h : startTable s id purpose a n = .next t) : OperationEffect s i t := by
  unfold startTable at h
  split at h
  · rw [raise_with3] at h; cases h; exact .answer _ _ (by simp)
  · split at h
    · rw [continueWith_with3] at h; cases h; exact .table _ _ _ _ _ (by omega) hi hp
    · split at h
      · rw [raise_with3] at h; cases h; exact .answer _ _ (by simp)
      · rw [continueWith_with3] at h; cases h; exact .table _ _ _ _ _ (by omega) hi hp

theorem build_next {s t : State} {e : Trb} {i : Instr} (h : build s e = .next t) :
    s.activity = .idle ∧ OperationEffect s i t := by
  obtain ⟨ha, hk⟩ := whenIdle_eq_next.1 h
  rw [finish_with3] at hk; cases hk
  exact ⟨ha, .answer _ _ (by simp)⟩

theorem walkEmpty_start_next {s t : State} {id : InstId} {c : ConsumerRing} {g : Option Gather} {i : Instr}
    (hg : ∀ x, g = some x → x.item = []) (h : walkEmpty s id c g = .next t) : OperationEffect s i t := by
  cases g with
  | none => rw [walkEmpty_none] at h; cases h; exact .answer _ _ (by simp)
  | some x => rw [walkEmpty_noWork _ _ _ (hg x rfl)] at h; cases h; exact .answer _ _ (by simp)

theorem afterWrite_done (s : State) (a : Addr) (t : Trb) (id : InstId) (r : EventRing) (res : OpResult) :
    deliver (putEvent (afterWrite s a t) id r) res
      = .next ((afterWrite s a t).with3 (putInst s.instances id (.event r)) .idle (some res)) := by
  simp only [deliver, putEvent, State.with3, afterWrite]

theorem erEnqueue_next {id : InstId} {event : Trb} {s t : State} (h : execErEnqueue id event s = .next t) :
    s.activity = .idle ∧ OperationEffect s (.erEnqueue id event) t := by
  obtain ⟨ha, hk⟩ := whenIdle_eq_next.1 h
  refine ⟨ha, ?_⟩
  obtain ⟨r, hr, hk⟩ := onEvent_eq_next.1 hk
  cases hd : r.dequeuePointer with
  | none => simp only [hd, raise_with3] at hk; cases hk; exact .answer _ _ (by simp)
  | some d =>
    cases hn : nextSlot r with
    | none => simp [hd, hn] at hk
    | some a =>
      simp only [hd, hn, writeAdvance] at hk
      split at hk
      · rename_i had
        split at hk
        · cases hv : advance r with
          | none => simp [hv] at hk
          | some r' =>
            simp only [hv, raise, afterWrite_done] at hk; cases hk
            exact .full id event r r' d hr hd (by rw [hn, had]) hv
        · rw [raise_with3, afterFailedWrite_instances] at hk; cases hk; exact .failed _ _ r hr
      · rename_i had
        split at hk
        · cases hv : advance r with
          | none => simp [hv] at hk
          | some r' =>
            simp only [hv, finish, afterWrite_done] at hk; cases hk
            exact .accepted id event r r' d hr hd (by simp [hn, had]) hv
        · rw [raise_with3, afterFailedWrite_instances] at hk; cases hk; exact .failed _ _ r hr

/-- Everything a request can do when it answers a next state: the port was free, and its effect is one of the above. -/
theorem exec_operation_next {i : Instr} {s t : State} (hi : i.trb? = none) (h : exec i s = .next t) :
    s.activity = .idle ∧ OperationEffect s i t := by
  cases i <;> simp only [Instr.trb?, reduceCtorEq] at hi
  case erEnqueue => exact erEnqueue_next h
  case evTransfer => exact build_next h
  case evCommandCompletion => exact build_next h
  case evPortStatusChange => exact build_next h
  case evHostController => exact build_next h
  case evDeviceNotification => exact build_next h
  case evMfindexWrap => exact build_next h
  all_goals
    obtain ⟨ha, hk⟩ := whenIdle_eq_next.1 h
    refine ⟨ha, ?_⟩
  case crCreate =>
    split at hk
    · cases hk; exact .create _ _ _
    · cases hk
  case crUpdateFromGuest =>
    obtain ⟨c, hc, hk⟩ := onConsumer_eq_next.1 hk
    cases hk; exact .refresh _ c hc
  case crReset =>
    obtain ⟨c, hc, hk⟩ := onConsumer_eq_next.1 hk
    cases hk; exact .reset _ _ c hc
  case crDequeueTrb =>
    obtain ⟨c, hc, hk⟩ := onConsumer_eq_next.1 hk
    split at hk
    · cases hk; exact .walk _ c hc ‹_›
    · exact walkEmpty_start_next (by simp) hk
  case crDequeueWorkItem =>
    obtain ⟨c, hc, hk⟩ := onConsumer_eq_next.1 hk
    split at hk
    · cases hk; exact .workItem _ c hc ‹_›
    · exact walkEmpty_start_next (by simp [startGather]) hk
  case erCreate =>
    split at hk
    · exact startTable_next rfl (by simp) hk
    · cases hk
  case erIsFull =>
    obtain ⟨r, hr, hk⟩ := onEvent_eq_next.1 hk
    split at hk
    · cases hk; exact .answer _ _ (by simp)
    · split at hk
      · cases hk
      · cases hk; exact .answer _ _ (by simp)
  case erUpdateDequeuePointer =>
    obtain ⟨r, hr, hk⟩ := onEvent_eq_next.1 hk
    cases hk; exact .acknowledge _ _ r hr
  case erUpdateSegmentTable =>
    obtain ⟨r, hr, hk⟩ := onEvent_eq_next.1 hk
    exact startTable_next rfl (fun _ => ⟨r, hr⟩) hk
  case cdFromTrbs trbs =>
    match trbs with
    | [] => cases hk; exact .answer _ _ (by simp)
    | [_] => cases hk; exact .answer _ _ (by simp)
    | _ :: _ :: _ => cases hk; exact .answer _ _ (by simp)
  case tdFromTrbs => cases hk; exact .answer _ _ (by simp)
  case tdTransferSize => cases hk; exact .answer _ _ (by simp)

/-! ## What an idle engine refuses -/

theorem onConsumer_refused {s : State} {id : InstId} {k : ConsumerRing → Result} {why : Refusal}
    (h : onConsumer s id k = .refused why) (hk : ∀ c, k c ≠ .refused why) :
    (∃ r, findInst s.instances id = some (.event r) ∧ why = .wrongKind id) ∨
    (findInst s.instances id = none ∧ why = .noInstance id) := by
  unfold onConsumer at h
  split at h
  · exact absurd h (hk _)
  · cases h; exact .inl ⟨_, ‹_›, rfl⟩
  · cases h; exact .inr ⟨‹_›, rfl⟩

theorem onEvent_refused {s : State} {id : InstId} {k : EventRing → Result} {why : Refusal}
    (h : onEvent s id k = .refused why) (hk : ∀ r, k r ≠ .refused why) :
    (∃ c, findInst s.instances id = some (.consumer c) ∧ why = .wrongKind id) ∨
    (findInst s.instances id = none ∧ why = .noInstance id) := by
  unfold onEvent at h
  split at h
  · exact absurd h (hk _)
  · cases h; exact .inl ⟨_, ‹_›, rfl⟩
  · cases h; exact .inr ⟨‹_›, rfl⟩

theorem walkEmpty_ne_refused (s : State) (id : InstId) (c : ConsumerRing) (g : Option Gather) (why : Refusal) :
    walkEmpty s id c g ≠ .refused why := by
  unfold walkEmpty; split <;> (try split) <;> simp [finish, raise, deliver]

theorem startTable_ne_refused (s : State) (id : InstId) (p : TablePurpose) (a : Addr) (n : Nat) (why : Refusal) :
    startTable s id p a n ≠ .refused why := by
  unfold startTable; split
  · simp [raise, deliver]
  · split
    · simp [continueWith]
    · split <;> simp [raise, deliver, continueWith]

theorem writeAdvance_ne_refused (s : State) (r : EventRing) (t : Trb) (done : State → EventRing → Result) (why : Refusal)
    (h : ∀ s' r', done s' r' ≠ .refused why) : writeAdvance s r t done ≠ .refused why := by
  unfold writeAdvance; split
  · split
    · simp
    · exact h _ _
  · simp [raise, deliver]

/-- An idle engine refuses only what has no meaning, with the refusal named for it. -/
theorem exec_idle_refused {i : Instr} {s : State} {why : Refusal} (hs : s.activity = .idle)
    (h : exec i s = .refused why) : NoMeaning s i why := by
  match ht : i.trb? with
  | some t =>
    rw [exec_of_trb? ht] at h
    have : why = .noRecordAtHand := by
      unfold atRecord atLink atData at h
      rw [hs] at h
      split at h <;> cases h <;> rfl
    subst this; exact .record i t ht
  | none =>
  have consumer {k : ConsumerRing → Result} {id : InstId} (pointer : Addr)
      (hi : i ∈ [.crUpdateFromGuest id, .crReset id pointer, .crDequeueTrb id, .crDequeueWorkItem id])
      (h : whenIdle s (onConsumer s id k) = .refused why) (hk : ∀ c, k c ≠ .refused why) : NoMeaning s i why := by
    rw [whenIdle_of_idle hs] at h
    obtain ⟨r, hr, rfl⟩ | ⟨hn, rfl⟩ := onConsumer_refused h hk
    · exact .onEventRing i id r pointer hr hi
    · simp only [List.mem_cons, List.not_mem_nil, or_false] at hi
      obtain rfl | rfl | rfl | rfl := hi <;> exact .missing _ id rfl hn (by simp) (by simp)
  have event {k : EventRing → Result} {id : InstId} (addr : Addr) (n : Nat) (e : Trb)
      (hi : i ∈ [.erIsFull id, .erEnqueue id e, .erUpdateDequeuePointer id addr, .erUpdateSegmentTable id addr n])
      (h : whenIdle s (onEvent s id k) = .refused why) (hk : ∀ r, k r ≠ .refused why) : NoMeaning s i why := by
    rw [whenIdle_of_idle hs] at h
    obtain ⟨c, hc, rfl⟩ | ⟨hn, rfl⟩ := onEvent_refused h hk
    · exact .onConsumerRing i id c addr n e hc hi
    · simp only [List.mem_cons, List.not_mem_nil, or_false] at hi
      obtain rfl | rfl | rfl | rfl := hi <;> exact .missing _ id rfl hn (by simp) (by simp)
  cases i <;> simp only [Instr.trb?, reduceCtorEq] at ht
  case crUpdateFromGuest => exact consumer 0 (by simp) h (by simp [continueWith])
  case crReset id pointer => exact consumer pointer (by simp) h (by simp [finish, deliver])
  case crDequeueTrb =>
    refine consumer 0 (by simp) h fun c => ?_
    split
    · simp [continueWith]
    · exact walkEmpty_ne_refused _ _ _ _ _
  case crDequeueWorkItem =>
    refine consumer 0 (by simp) h fun c => ?_
    split
    · simp [continueWith]
    · exact walkEmpty_ne_refused _ _ _ _ _
  case erIsFull =>
    exact event 0 0 ⟨0, 0, 0⟩ (by simp) h fun r => by
      split
      · simp [finish, deliver]
      · split <;> simp [finish, deliver]
  case erEnqueue id e =>
    exact event 0 0 e (by simp) h fun r => by
      split
      · simp [raise, deliver]
      · split
        · simp
        · split <;> exact writeAdvance_ne_refused _ _ _ _ _ (by simp [raise, finish, deliver])
  case erUpdateDequeuePointer id addr => exact event addr 0 ⟨0, 0, 0⟩ (by simp) h (by simp [finish, deliver])
  case erUpdateSegmentTable id erstba erstsz =>
    exact event erstba erstsz ⟨0, 0, 0⟩ (by simp) h fun r => startTable_ne_refused _ _ _ _ _ _
  case crCreate =>
    simp only [exec, execCrCreate, whenIdle_of_idle hs] at h
    split at h
    · simp [finish, deliver] at h
    · cases h; exact .consumerBound _ _ _ (Bool.eq_false_of_not_eq_true ‹_›)
  case erCreate =>
    simp only [exec, execErCreate, whenIdle_of_idle hs] at h
    split at h
    · exact absurd h (startTable_ne_refused _ _ _ _ _ _)
    · cases h; exact .eventBound _ _ _ _ (Bool.eq_false_of_not_eq_true ‹_›)
  case cdFromTrbs trbs =>
    simp only [exec, execCdFromTrbs, whenIdle_of_idle hs] at h
    split at h <;> simp [finish, raise, deliver] at h
  all_goals
    simp [exec, execTdFromTrbs, execTdTransferSize, execEvTransfer, execEvCommandCompletion, execEvPortStatusChange,
      execEvHostController, execEvDeviceNotification, execEvMfindexWrap, build, whenIdle_of_idle hs, finish,
      deliver] at h

/-! ## One step -/

/-- What one step of `read_table` can do. -/
inductive TableEffect (s : State) (id : InstId) (purpose : TablePurpose) (erstba : Addr) (erstsz : Nat)
    (raw : List Segment) : State → Prop where
  | fails (e : OpError) (h : e ≠ .eMissingLink) : TableEffect s id purpose erstba erstsz raw
      (s.with3 s.instances .idle (some (.error e)))
  | goesOn (g : Segment) (h : raw.length + 1 < erstsz) : TableEffect s id purpose erstba erstsz raw
      (s.with3 s.instances (.readTable id purpose erstba erstsz (raw ++ [g])) none)
  | creates (erdp : Addr) (first : Segment) (rest : List Segment) (hp : purpose = .create erdp)
      (hv : firstBadFrom 0 (first :: rest) = none) : TableEffect s id purpose erstba erstsz raw
      (s.with3 (putInst s.instances id (.event (newEvent (first :: rest) first erdp))) .idle (some (.ok .nothing)))
  | updates (r : EventRing) (table : List Segment) (hp : purpose = .update) (hr : findInst s.instances id = some (.event r))
      (hn : table ≠ []) (hv : firstBadFrom 0 table = none) : TableEffect s id purpose erstba erstsz raw
      (s.with3 (putInst s.instances id (.event { r with segs := table })) .idle (some (.ok .nothing)))

theorem tableStep_next {s t : State} {id : InstId} {purpose : TablePurpose} {erstba : Addr} {erstsz : Nat}
    {raw : List Segment} (h : tableStep s id purpose erstba erstsz raw = .next t) :
    TableEffect s id purpose erstba erstsz raw t := by
  unfold tableStep at h
  split at h
  · cases h; exact .fails _ (by simp)
  · rename_i bs _
    split at h
    · unfold finishTable at h
      split at h
      · cases h; exact .fails _ (by simp)
      · rename_i hv
        unfold installTable at h
        split at h
        · split at h
          · cases h
          · rename_i heq; rw [heq] at hv h; cases h; exact .creates _ _ _ rfl hv
        · split at h <;> cases h
          exact .updates _ _ rfl ‹_› (by simp) hv
    · cases h; exact .goesOn _ (by omega)

/-- Everything a step can do when it answers a next state, after the environment's turn: the port is idle and no request
waits; a request is executed; a record is executed; a refresh ends with an error; a step of `read_table`; or (in states
no run reaches) a walk whose index is out of range. -/
inductive StepEffect (s : State) : State → Prop where
  | rest (hs : s.activity = .idle) (hr : s.requests = []) : StepEffect s s
  | request (bs : List Byte) (rest : List (List Byte)) (i : Instr) (t : State) (hs : s.activity = .idle)
      (hr : s.requests = bs :: rest) (hd : decode .port bs = .ok i) (hi : i.trb? = none)
      (hx : exec i { s with requests := rest } = .next t) (h : OperationEffect { s with requests := rest } i t) :
      StepEffect s t
  | record (trb : Trb) (t : State)
      (hf : (∃ id g a, s.activity = .refresh id g a ∧ g.length < s.params.maxRingTrbs ∧ readTrb s a = some trb) ∨
        ∃ id st g c, s.activity = .dequeue id st g ∧ findInst s.instances id = some (.consumer c) ∧
          c.shadow[c.dequeueIndex]? = some trb)
      (h : atRecord trb s = .next t) : StepEffect s t
  | refreshFails (id : InstId) (g : List Trb) (a : Addr) (e : OpError) (hs : s.activity = .refresh id g a)
      (he : e ≠ .eMissingLink) : StepEffect s (s.with3 s.instances .idle (some (.error e)))
  | table (id : InstId) (purpose : TablePurpose) (erstba : Addr) (erstsz : Nat) (raw : List Segment) (t : State)
      (hs : s.activity = .readTable id purpose erstba erstsz raw)
      (h : TableEffect s id purpose erstba erstsz raw t) : StepEffect s t
  | lost (id : InstId) (st : Nat) (g : Option Gather) (c : ConsumerRing) (t : State)
      (hs : s.activity = .dequeue id st g) (hc : findInst s.instances id = some (.consumer c))
      (hl : c.shadow.length ≤ c.dequeueIndex) (h : walkEmpty s id c g = .next t) : StepEffect s t

/-- A request decodes to an operation, never to a record. -/
theorem trb?_of_decodeRequest {bs : List Byte} {i : Instr} (h : decodeRequest bs = .ok i) : i.trb? = none := by
  unfold decodeRequest at h
  split at h <;> cases h
  rename_i hp
  unfold parseRequest at hp
  split at hp
  · cases hp
  · split at hp <;> (try simp only [withOperand] at hp) <;> (repeat' split at hp) <;> cases hp <;> rfl

theorem step_next {s t : State} (h : step s = .next t) : StepEffect (takeTurn s) t := by
  unfold step fetch at h
  cases hs : (takeTurn s).activity with
  | idle =>
    simp only [hs] at h
    unfold fetchRequest at h
    cases hr : (takeTurn s).requests with
    | nil => simp only [hr] at h; cases h; exact .rest hs hr
    | cons bs rest =>
      cases hd : decode .port bs with
      | error e => simp only [hr, hd] at h; cases h
      | ok i =>
        simp only [hr, hd] at h
        have hi : i.trb? = none := trb?_of_decodeRequest hd
        exact .request bs rest i t hs hr hd hi h (exec_operation_next hi h).2
  | refresh id g a =>
    simp only [hs] at h
    unfold fetchFromMemory at h
    split at h
    · rename_i hf
      split at hf
      · cases hf
      · split at hf <;> cases hf
        rename_i hb trb hm
        rw [exec_decodeTrb] at h
        exact .record trb t (.inl ⟨id, g, a, hs, by omega, hm⟩) h
    · rename_i hf
      split at hf
      · cases hf; cases h; exact .refreshFails id g a _ hs (by simp)
      · split at hf <;> cases hf
        cases h; exact .refreshFails id g a _ hs (by simp)
  | dequeue id st g =>
    simp only [hs] at h
    unfold fetchFromShadow at h
    split at h
    · rename_i hf
      split at hf
      · split at hf <;> cases hf
        rename_i _ hc _ _ hm
        rw [exec_decodeTrb] at h
        exact .record _ t (.inr ⟨id, st, g, _, hs, hc, hm⟩) h
      · cases hf
      · cases hf
    · rename_i hf
      split at hf
      · split at hf <;> cases hf
        rename_i hc _ hm
        exact .lost id st g _ t hs hc (by simpa using hm) h
      · cases hf; cases h
      · cases hf; cases h
  | readTable id purpose erstba erstsz raw =>
    simp only [hs] at h
    exact .table id purpose erstba erstsz raw t hs (tableStep_next h)

end Sys2Proof.Machine
end

