-- ==== Sys2Proof/Laws/PerInstr.lean ====
section
/-! SUPPORT. The family RowMatch: what is encoded for an instruction matches that instruction's row of
spec/opcode_table.json, one lemma per constructor. -/
namespace Sys2Proof.Laws.RowMatch
open Sys2Proof

/-- The `match` word of the row, copied from spec/opcode_table.json. -/
def rowMatch : Instr → Nat
  | .reserved0 _ => 0x00000000
  | .normal _ => 0x00000400
  | .setupStage _ => 0x00000800
  | .dataStage _ => 0x00000C00
  | .statusStage _ => 0x00001000
  | .isoch _ => 0x00001400
  | .link _ => 0x00001800
  | .eventData _ => 0x00001C00
  | .noOp _ => 0x00002000
  | .enableSlotCmd _ => 0x00002400
  | .disableSlotCmd _ => 0x00002800
  | .addressDeviceCmd _ => 0x00002C00
  | .configureEndpointCmd _ => 0x00003000
  | .evaluateContextCmd _ => 0x00003400
  | .resetEndpointCmd _ => 0x00003800
  | .stopEndpointCmd _ => 0x00003C00
  | .setTrDequeuePointerCmd _ => 0x00004000
  | .resetDeviceCmd _ => 0x00004400
  | .forceEventCmd _ => 0x00004800
  | .negotiateBandwidthCmd _ => 0x00004C00
  | .setLatencyToleranceValueCmd _ => 0x00005000
  | .getPortBandwidthCmd _ => 0x00005400
  | .forceHeaderCmd _ => 0x00005800
  | .noOpCmd _ => 0x00005C00
  | .getExtendedPropertyCmd _ => 0x00006000
  | .setExtendedPropertyCmd _ => 0x00006400
  | .reserved26 _ => 0x00006800
  | .reserved27 _ => 0x00006C00
  | .reserved28 _ => 0x00007000
  | .reserved29 _ => 0x00007400
  | .reserved30 _ => 0x00007800
  | .reserved31 _ => 0x00007C00
  | .transferEvent _ => 0x00008000
  | .commandCompletionEvent _ => 0x00008400
  | .portStatusChangeEvent _ => 0x00008800
  | .bandwidthRequestEvent _ => 0x00008C00
  | .doorbellEvent _ => 0x00009000
  | .hostControllerEvent _ => 0x00009400
  | .deviceNotificationEvent _ => 0x00009800
  | .mfIndexWrapEvent _ => 0x00009C00
  | .reserved40 _ => 0x0000A000
  | .reserved41 _ => 0x0000A400
  | .reserved42 _ => 0x0000A800
  | .reserved43 _ => 0x0000AC00
  | .reserved44 _ => 0x0000B000
  | .reserved45 _ => 0x0000B400
  | .reserved46 _ => 0x0000B800
  | .reserved47 _ => 0x0000BC00
  | .reserved48 _ => 0x0000C000
  | .reserved49 _ => 0x0000C400
  | .reserved50 _ => 0x0000C800
  | .reserved51 _ => 0x0000CC00
  | .reserved52 _ => 0x0000D000
  | .reserved53 _ => 0x0000D400
  | .reserved54 _ => 0x0000D800
  | .reserved55 _ => 0x0000DC00
  | .reserved56 _ => 0x0000E000
  | .reserved57 _ => 0x0000E400
  | .reserved58 _ => 0x0000E800
  | .reserved59 _ => 0x0000EC00
  | .reserved60 _ => 0x0000F000
  | .reserved61 _ => 0x0000F400
  | .reserved62 _ => 0x0000F800
  | .reserved63 _ => 0x0000FC00
  | .crCreate _ _ _ => 0x01
  | .crUpdateFromGuest _ => 0x02
  | .crReset _ _ => 0x03
  | .crDequeueTrb _ => 0x04
  | .crDequeueWorkItem _ => 0x05
  | .erCreate _ _ _ _ => 0x10
  | .erIsFull _ => 0x11
  | .erEnqueue _ _ => 0x12
  | .erUpdateDequeuePointer _ _ => 0x13
  | .erUpdateSegmentTable _ _ _ => 0x14
  | .evTransfer _ _ _ _ _ => 0x20
  | .evCommandCompletion _ _ _ => 0x21
  | .evPortStatusChange _ => 0x22
  | .evHostController _ => 0x23
  | .evDeviceNotification _ _ _ => 0x24
  | .evMfindexWrap => 0x25
  | .cdFromTrbs _ => 0x30
  | .tdFromTrbs _ => 0x31
  | .tdTransferSize _ => 0x32

/-- The bits the row numbers, under the row's mask: `control & 0xFC00` of a record, the first byte of a request. -/
def rowBits (i : Instr) : Nat :=
  match i.trb? with
  | some t => t.control.toNat &&& 0x0000FC00
  | none => ((encode i).headD 0).toNat &&& 0xFF

/-- The encoding of an instruction matches its row. -/
def Statement (i : Instr) : Prop := rowBits i = rowMatch i

/-- The masked bits of `control` are the type code in its place. -/
theorem control_masked (t : Trb) : t.control.toNat &&& 0x0000FC00 = t.trbType.toNat * 1024 := by
  have h : t.control &&& 0x0000FC00#32 = (t.trbType.setWidth 32) <<< 10 := by
    ext i hi
    simp only [Trb.trbType, BitVec.getElem_and, BitVec.getElem_shiftLeft]
    interval_cases i <;> simp
  have h2 : t.control.toNat &&& 64512 = ((t.trbType.setWidth 32) <<< 10).toNat := by
    rw [← h]; rfl
  have hlt := t.trbType.isLt
  rw [h2, BitVec.toNat_shiftLeft, BitVec.toNat_setWidth, Nat.shiftLeft_eq]
  omega

theorem of_view {i : Instr} {t : Trb} (n : Nat) (hi : i.trb? = some t) (ht : t.trbType.toNat * 1024 = n)
    (hn : rowMatch i = n) : Statement i := by
  rw [Statement, rowBits, hi, hn, ← ht]
  exact control_masked t

theorem of_request {i : Instr} {b : Byte} {bs : List Byte} (hi : i.trb? = none) (he : encode i = b :: bs)
    (hn : rowMatch i = b.toNat &&& 255) : Statement i := by
  rw [Statement, rowBits, hi, hn, he]
  rfl

theorem reserved0 (t : PlainTrb) : Statement (.reserved0 t) :=
  of_view 0x00000000 rfl (by rw [PlainTrb.trbType_toTrb]; rfl) rfl

theorem normal (t : TransferTrb) : Statement (.normal t) :=
  of_view 0x00000400 rfl (by rw [TransferTrb.trbType_toTrb]; rfl) rfl

theorem setupStage (t : TransferTrb) : Statement (.setupStage t) :=
  of_view 0x00000800 rfl (by rw [TransferTrb.trbType_toTrb]; rfl) rfl

theorem dataStage (t : TransferTrb) : Statement (.dataStage t) :=
  of_view 0x00000C00 rfl (by rw [TransferTrb.trbType_toTrb]; rfl) rfl

theorem statusStage (t : TransferTrb) : Statement (.statusStage t) :=
  of_view 0x00001000 rfl (by rw [TransferTrb.trbType_toTrb]; rfl) rfl

theorem isoch (t : TransferTrb) : Statement (.isoch t) :=
  of_view 0x00001400 rfl (by rw [TransferTrb.trbType_toTrb]; rfl) rfl

theorem link (t : LinkTrb) : Statement (.link t) :=
  of_view 0x00001800 rfl (by rw [LinkTrb.trbType_toTrb]; rfl) rfl

theorem eventData (t : PlainTrb) : Statement (.eventData t) :=
  of_view 0x00001C00 rfl (by rw [PlainTrb.trbType_toTrb]; rfl) rfl

theorem noOp (t : PlainTrb) : Statement (.noOp t) :=
  of_view 0x00002000 rfl (by rw [PlainTrb.trbType_toTrb]; rfl) rfl

theorem enableSlotCmd (t : PlainTrb) : Statement (.enableSlotCmd t) :=
  of_view 0x00002400 rfl (by rw [PlainTrb.trbType_toTrb]; rfl) rfl

theorem disableSlotCmd (t : PlainTrb) : Statement (.disableSlotCmd t) :=
  of_view 0x00002800 rfl (by rw [PlainTrb.trbType_toTrb]; rfl) rfl

theorem addressDeviceCmd (t : PlainTrb) : Statement (.addressDeviceCmd t) :=
  of_view 0x00002C00 rfl (by rw [PlainTrb.trbType_toTrb]; rfl) rfl

theorem configureEndpointCmd (t : PlainTrb) : Statement (.configureEndpointCmd t) :=
  of_view 0x00003000 rfl (by rw [PlainTrb.trbType_toTrb]; rfl) rfl

theorem evaluateContextCmd (t : PlainTrb) : Statement (.evaluateContextCmd t) :=
  of_view 0x00003400 rfl (by rw [PlainTrb.trbType_toTrb]; rfl) rfl

theorem resetEndpointCmd (t : PlainTrb) : Statement (.resetEndpointCmd t) :=
  of_view 0x00003800 rfl (by rw [PlainTrb.trbType_toTrb]; rfl) rfl

theorem stopEndpointCmd (t : PlainTrb) : Statement (.stopEndpointCmd t) :=
  of_view 0x00003C00 rfl (by rw [PlainTrb.trbType_toTrb]; rfl) rfl

theorem setTrDequeuePointerCmd (t : PlainTrb) : Statement (.setTrDequeuePointerCmd t) :=
  of_view 0x00004000 rfl (by rw [PlainTrb.trbType_toTrb]; rfl) rfl

theorem resetDeviceCmd (t : PlainTrb) : Statement (.resetDeviceCmd t) :=
  of_view 0x00004400 rfl (by rw [PlainTrb.trbType_toTrb]; rfl) rfl

theorem forceEventCmd (t : PlainTrb) : Statement (.forceEventCmd t) :=
  of_view 0x00004800 rfl (by rw [PlainTrb.trbType_toTrb]; rfl) rfl

theorem negotiateBandwidthCmd (t : PlainTrb) : Statement (.negotiateBandwidthCmd t) :=
  of_view 0x00004C00 rfl (by rw [PlainTrb.trbType_toTrb]; rfl) rfl

theorem setLatencyToleranceValueCmd (t : PlainTrb) : Statement (.setLatencyToleranceValueCmd t) :=
  of_view 0x00005000 rfl (by rw [PlainTrb.trbType_toTrb]; rfl) rfl

theorem getPortBandwidthCmd (t : PlainTrb) : Statement (.getPortBandwidthCmd t) :=
  of_view 0x00005400 rfl (by rw [PlainTrb.trbType_toTrb]; rfl) rfl

theorem forceHeaderCmd (t : PlainTrb) : Statement (.forceHeaderCmd t) :=
  of_view 0x00005800 rfl (by rw [PlainTrb.trbType_toTrb]; rfl) rfl

theorem noOpCmd (t : PlainTrb) : Statement (.noOpCmd t) :=
  of_view 0x00005C00 rfl (by rw [PlainTrb.trbType_toTrb]; rfl) rfl

theorem getExtendedPropertyCmd (t : PlainTrb) : Statement (.getExtendedPropertyCmd t) :=
  of_view 0x00006000 rfl (by rw [PlainTrb.trbType_toTrb]; rfl) rfl

theorem setExtendedPropertyCmd (t : PlainTrb) : Statement (.setExtendedPropertyCmd t) :=
  of_view 0x00006400 rfl (by rw [PlainTrb.trbType_toTrb]; rfl) rfl

theorem reserved26 (t : PlainTrb) : Statement (.reserved26 t) :=
  of_view 0x00006800 rfl (by rw [PlainTrb.trbType_toTrb]; rfl) rfl

theorem reserved27 (t : PlainTrb) : Statement (.reserved27 t) :=
  of_view 0x00006C00 rfl (by rw [PlainTrb.trbType_toTrb]; rfl) rfl

theorem reserved28 (t : PlainTrb) : Statement (.reserved28 t) :=
  of_view 0x00007000 rfl (by rw [PlainTrb.trbType_toTrb]; rfl) rfl

theorem reserved29 (t : PlainTrb) : Statement (.reserved29 t) :=
  of_view 0x00007400 rfl (by rw [PlainTrb.trbType_toTrb]; rfl) rfl

theorem reserved30 (t : PlainTrb) : Statement (.reserved30 t) :=
  of_view 0x00007800 rfl (by rw [PlainTrb.trbType_toTrb]; rfl) rfl

theorem reserved31 (t : PlainTrb) : Statement (.reserved31 t) :=
  of_view 0x00007C00 rfl (by rw [PlainTrb.trbType_toTrb]; rfl) rfl

theorem transferEvent (t : PlainTrb) : Statement (.transferEvent t) :=
  of_view 0x00008000 rfl (by rw [PlainTrb.trbType_toTrb]; rfl) rfl

theorem commandCompletionEvent (t : PlainTrb) : Statement (.commandCompletionEvent t) :=
  of_view 0x00008400 rfl (by rw [PlainTrb.trbType_toTrb]; rfl) rfl

theorem portStatusChangeEvent (t : PlainTrb) : Statement (.portStatusChangeEvent t) :=
  of_view 0x00008800 rfl (by rw [PlainTrb.trbType_toTrb]; rfl) rfl

theorem bandwidthRequestEvent (t : PlainTrb) : Statement (.bandwidthRequestEvent t) :=
  of_view 0x00008C00 rfl (by rw [PlainTrb.trbType_toTrb]; rfl) rfl

theorem doorbellEvent (t : PlainTrb) : Statement (.doorbellEvent t) :=
  of_view 0x00009000 rfl (by rw [PlainTrb.trbType_toTrb]; rfl) rfl

theorem hostControllerEvent (t : PlainTrb) : Statement (.hostControllerEvent t) :=
  of_view 0x00009400 rfl (by rw [PlainTrb.trbType_toTrb]; rfl) rfl

theorem deviceNotificationEvent (t : PlainTrb) : Statement (.deviceNotificationEvent t) :=
  of_view 0x00009800 rfl (by rw [PlainTrb.trbType_toTrb]; rfl) rfl

theorem mfIndexWrapEvent (t : PlainTrb) : Statement (.mfIndexWrapEvent t) :=
  of_view 0x00009C00 rfl (by rw [PlainTrb.trbType_toTrb]; rfl) rfl

theorem reserved40 (t : PlainTrb) : Statement (.reserved40 t) :=
  of_view 0x0000A000 rfl (by rw [PlainTrb.trbType_toTrb]; rfl) rfl

theorem reserved41 (t : PlainTrb) : Statement (.reserved41 t) :=
  of_view 0x0000A400 rfl (by rw [PlainTrb.trbType_toTrb]; rfl) rfl

theorem reserved42 (t : PlainTrb) : Statement (.reserved42 t) :=
  of_view 0x0000A800 rfl (by rw [PlainTrb.trbType_toTrb]; rfl) rfl

theorem reserved43 (t : PlainTrb) : Statement (.reserved43 t) :=
  of_view 0x0000AC00 rfl (by rw [PlainTrb.trbType_toTrb]; rfl) rfl

theorem reserved44 (t : PlainTrb) : Statement (.reserved44 t) :=
  of_view 0x0000B000 rfl (by rw [PlainTrb.trbType_toTrb]; rfl) rfl

theorem reserved45 (t : PlainTrb) : Statement (.reserved45 t) :=
  of_view 0x0000B400 rfl (by rw [PlainTrb.trbType_toTrb]; rfl) rfl

theorem reserved46 (t : PlainTrb) : Statement (.reserved46 t) :=
  of_view 0x0000B800 rfl (by rw [PlainTrb.trbType_toTrb]; rfl) rfl

theorem reserved47 (t : PlainTrb) : Statement (.reserved47 t) :=
  of_view 0x0000BC00 rfl (by rw [PlainTrb.trbType_toTrb]; rfl) rfl

theorem reserved48 (t : PlainTrb) : Statement (.reserved48 t) :=
  of_view 0x0000C000 rfl (by rw [PlainTrb.trbType_toTrb]; rfl) rfl

theorem reserved49 (t : PlainTrb) : Statement (.reserved49 t) :=
  of_view 0x0000C400 rfl (by rw [PlainTrb.trbType_toTrb]; rfl) rfl

theorem reserved50 (t : PlainTrb) : Statement (.reserved50 t) :=
  of_view 0x0000C800 rfl (by rw [PlainTrb.trbType_toTrb]; rfl) rfl

theorem reserved51 (t : PlainTrb) : Statement (.reserved51 t) :=
  of_view 0x0000CC00 rfl (by rw [PlainTrb.trbType_toTrb]; rfl) rfl

theorem reserved52 (t : PlainTrb) : Statement (.reserved52 t) :=
  of_view 0x0000D000 rfl (by rw [PlainTrb.trbType_toTrb]; rfl) rfl

theorem reserved53 (t : PlainTrb) : Statement (.reserved53 t) :=
  of_view 0x0000D400 rfl (by rw [PlainTrb.trbType_toTrb]; rfl) rfl

theorem reserved54 (t : PlainTrb) : Statement (.reserved54 t) :=
  of_view 0x0000D800 rfl (by rw [PlainTrb.trbType_toTrb]; rfl) rfl

theorem reserved55 (t : PlainTrb) : Statement (.reserved55 t) :=
  of_view 0x0000DC00 rfl (by rw [PlainTrb.trbType_toTrb]; rfl) rfl

theorem reserved56 (t : PlainTrb) : Statement (.reserved56 t) :=
  of_view 0x0000E000 rfl (by rw [PlainTrb.trbType_toTrb]; rfl) rfl

theorem reserved57 (t : PlainTrb) : Statement (.reserved57 t) :=
  of_view 0x0000E400 rfl (by rw [PlainTrb.trbType_toTrb]; rfl) rfl

theorem reserved58 (t : PlainTrb) : Statement (.reserved58 t) :=
  of_view 0x0000E800 rfl (by rw [PlainTrb.trbType_toTrb]; rfl) rfl

theorem reserved59 (t : PlainTrb) : Statement (.reserved59 t) :=
  of_view 0x0000EC00 rfl (by rw [PlainTrb.trbType_toTrb]; rfl) rfl

theorem reserved60 (t : PlainTrb) : Statement (.reserved60 t) :=
  of_view 0x0000F000 rfl (by rw [PlainTrb.trbType_toTrb]; rfl) rfl

theorem reserved61 (t : PlainTrb) : Statement (.reserved61 t) :=
  of_view 0x0000F400 rfl (by rw [PlainTrb.trbType_toTrb]; rfl) rfl

theorem reserved62 (t : PlainTrb) : Statement (.reserved62 t) :=
  of_view 0x0000F800 rfl (by rw [PlainTrb.trbType_toTrb]; rfl) rfl

theorem reserved63 (t : PlainTrb) : Statement (.reserved63 t) :=
  of_view 0x0000FC00 rfl (by rw [PlainTrb.trbType_toTrb]; rfl) rfl

theorem crCreate (id : InstId) (kind : RingKind) (base : Addr) : Statement (.crCreate id kind base) :=
  of_request rfl (by rw [encode]) (by rw [rowMatch]; rfl)

theorem crUpdateFromGuest (id : InstId) : Statement (.crUpdateFromGuest id) :=
  of_request rfl (by rw [encode]) (by rw [rowMatch]; rfl)

theorem crReset (id : InstId) (pointer : Addr) : Statement (.crReset id pointer) :=
  of_request rfl (by rw [encode]) (by rw [rowMatch]; rfl)

theorem crDequeueTrb (id : InstId) : Statement (.crDequeueTrb id) :=
  of_request rfl (by rw [encode]) (by rw [rowMatch]; rfl)

theorem crDequeueWorkItem (id : InstId) : Statement (.crDequeueWorkItem id) :=
  of_request rfl (by rw [encode]) (by rw [rowMatch]; rfl)

theorem erCreate (id : InstId) (erstba : Addr) (erstsz : Nat) (erdp : Addr) : Statement (.erCreate id erstba erstsz erdp) :=
  of_request rfl (by rw [encode]) (by rw [rowMatch]; rfl)

theorem erIsFull (id : InstId) : Statement (.erIsFull id) :=
  of_request rfl (by rw [encode]) (by rw [rowMatch]; rfl)

theorem erEnqueue (id : InstId) (event : Trb) : Statement (.erEnqueue id event) :=
  of_request rfl (by rw [encode]) (by rw [rowMatch]; rfl)

theorem erUpdateDequeuePointer (id : InstId) (addr : Addr) : Statement (.erUpdateDequeuePointer id addr) :=
  of_request rfl (by rw [encode]) (by rw [rowMatch]; rfl)

theorem erUpdateSegmentTable (id : InstId) (erstba : Addr) (erstsz : Nat) : Statement (.erUpdateSegmentTable id erstba erstsz) :=
  of_request rfl (by rw [encode]) (by rw [rowMatch]; rfl)

theorem evTransfer (trbPointer : BitVec 64) (length : BitVec 64) (slot : BitVec 64) (endpoint : BitVec 64) (cc : BitVec 64) : Statement (.evTransfer trbPointer length slot endpoint cc) :=
  of_request rfl (by rw [encode]) (by rw [rowMatch]; rfl)

theorem evCommandCompletion (cc : BitVec 64) (slot : BitVec 64) (commandAddress : BitVec 64) : Statement (.evCommandCompletion cc slot commandAddress) :=
  of_request rfl (by rw [encode]) (by rw [rowMatch]; rfl)

theorem evPortStatusChange (port : BitVec 64) : Statement (.evPortStatusChange port) :=
  of_request rfl (by rw [encode]) (by rw [rowMatch]; rfl)

theorem evHostController (cc : BitVec 64) : Statement (.evHostController cc) :=
  of_request rfl (by rw [encode]) (by rw [rowMatch]; rfl)

theorem evDeviceNotification (slot : BitVec 64) (ntype : BitVec 64) (data : BitVec 64) : Statement (.evDeviceNotification slot ntype data) :=
  of_request rfl (by rw [encode]) (by rw [rowMatch]; rfl)

theorem evMfindexWrap : Statement (.evMfindexWrap) :=
  of_request rfl (by rw [encode]) (by rw [rowMatch]; rfl)

theorem cdFromTrbs (trbs : List Trb) : Statement (.cdFromTrbs trbs) :=
  of_request rfl (by rw [encode]) (by rw [rowMatch]; rfl)

theorem tdFromTrbs (trbs : List Trb) : Statement (.tdFromTrbs trbs) :=
  of_request rfl (by rw [encode]) (by rw [rowMatch]; rfl)

theorem tdTransferSize (td : List Trb) : Statement (.tdTransferSize td) :=
  of_request rfl (by rw [encode]) (by rw [rowMatch]; rfl)

end Sys2Proof.Laws.RowMatch
end

