-- ==== Sys2Proof/Laws/Requests.lean ====
section
/-! SUPPORT. Laws of request operands: each parser reads back what its encoder put, and leaves the rest. -/
namespace Sys2Proof

theorem takeBytes_append {n : Nat} {w : List Byte} (h : w.length = n) (rest : List Byte) :
    takeBytes n (w ++ rest) = .ok (w, rest) := by
  subst h; simp [takeBytes]

theorem takeNat_putNat {n : Nat} (h : n < 18446744073709551616) (rest : List Byte) :
    takeNat (putNat n ++ rest) = .ok (n, rest) := by
  rw [takeNat, putNat, takeBytes_append (by simp)]
  simp [leNat_leBytes_of_lt (n := 8) (v := n) (by simpa using h)]

theorem takeWord_putNat (w : BitVec 64) (rest : List Byte) :
    takeWord (putNat w.toNat ++ rest) = .ok (w, rest) := by
  rw [takeWord, takeNat_putNat w.isLt]; simp

theorem takeKind_putKind (k : RingKind) (rest : List Byte) : takeKind (putKind k ++ rest) = .ok (k, rest) := by
  cases k <;> rfl

theorem takeTrb_toBytes (t : Trb) (rest : List Byte) : takeTrb (t.toBytes ++ rest) = .ok (t, rest) := by
  rw [takeTrb, takeBytes_append (by simp)]; simp

theorem takeTrbs_flatMap (ts : List Trb) (rest : List Byte) :
    takeTrbs ts.length (ts.flatMap Trb.toBytes ++ rest) = .ok (ts, rest) := by
  induction ts with
  | nil => rfl
  | cons t ts ih =>
    simp only [List.length_cons, takeTrbs, List.flatMap_cons, List.append_assoc, takeTrb_toBytes, ih]

theorem takeTrbList_putTrbList {ts : List Trb} (h : ts.length < 18446744073709551616) (rest : List Byte) :
    takeTrbList (putTrbList ts ++ rest) = .ok (ts, rest) := by
  rw [takeTrbList, putTrbList, List.append_assoc, takeNat_putNat h]
  exact takeTrbs_flatMap ts rest

@[simp] theorem withOperand_ok {α β : Type} (a : α) (rest : List Byte) (k : α → List Byte → Parsed β) :
    withOperand (.ok (a, rest)) k = k a rest := rfl

end Sys2Proof
end

