-- ==== Sys2Proof/Laws/Runs.lean ====
section
/-! SUPPORT. Runs of steps, the slots a walk has left, and the positions of an Event Ring: the small laws that
statements about whole operations rest on. -/
namespace Sys2Proof.Machine
open Sys2Proof

/-! ## Runs -/

@[simp] theorem runSteps_zero (s : State) : runSteps 0 s = .next s := rfl

theorem runSteps_succ {s t : State} {n : Nat} (h : step s = .next t) : runSteps (n + 1) s = runSteps n t := by
  simp [runSteps, h]

theorem runSteps_add {n : Nat} {s t : State} (k : Nat) (h : runSteps n s = .next t) :
    runSteps (n + k) s = runSteps k t := by
  induction n generalizing s with
  | zero => cases h; simp
  | succ n ih =>
    rw [show n + 1 + k = (n + k) + 1 by omega]
    rw [runSteps] at h ⊢
    cases hs : step s <;> simp only [hs] at h ⊢ <;> try cases h
    exact ih h

theorem runSteps_snoc {n : Nat} {s t u : State} (h : runSteps n s = .next t) (h' : step t = .next u) :
    runSteps (n + 1) s = .next u := by
  rw [runSteps_add 1 h, runSteps_succ h', runSteps_zero]

theorem run_succ (M : Host.Core) (n : Nat) (s : M.State) : M.run (n + 1) s =
    match M.step s with
    | .next t => M.run n t
    | .fault r => .fault r
    | .refused r => .refused r := rfl

/-- The run of Safety.lean is the run of the host's interface. -/
theorem runSteps_eq_run (n : Nat) (s : State) : runSteps n s = Host.Core.run core n s := by
  induction n generalizing s with
  | zero => rfl
  | succ n ih =>
    have hc : core.step s = step s := rfl
    rw [runSteps]
    refine Eq.trans ?_ (run_succ core n s).symm
    simp only [hc]
    cases step s with
    | next t => exact ih t
    | fault r => rfl
    | refused r => rfl

/-- A step of a walk meets the record at the index. -/
theorem step_walk {s : State} {id : InstId} {start : Nat} {gather : Option Gather} {c : ConsumerRing} {t : Trb}
    (hs : s.activity = .dequeue id start gather) (hc : findInst s.instances id = some (.consumer c))
    (ht : c.shadow[c.dequeueIndex]? = some t) : step s = atRecord t (takeTurn s) := by
  simp [step, fetch, hs, fetchFromShadow, hc, ht, exec_decodeTrb]

/-- A step of a refresh that reads a record meets it. -/
theorem step_refresh {s : State} {id : InstId} {gathered : List Trb} {addr : Addr} {t : Trb}
    (hs : s.activity = .refresh id gathered addr) (hl : gathered.length < s.params.maxRingTrbs)
    (ht : readTrb (takeTurn s) addr = some t) : step s = atRecord t (takeTurn s) := by
  simp [step, fetch, hs, fetchFromMemory, Nat.not_le.2 hl, ht, exec_decodeTrb]

/-- Where the environment does nothing, its turn only clears the service's verdict. -/
theorem takeTurn_nil {s : State} (h : s.turns = []) : takeTurn s = { s with serviceFails := false } := by
  simp [takeTurn, h]

/-! ## The slots a walk has left -/

theorem slotsLeft_pos {length start index : Nat} (h1 : start < length) (h2 : index < length) :
    1 ≤ slotsLeft length start index := by
  unfold slotsLeft
  split
  · omega
  · by_cases h : index < start
    · rw [show start + length - index = (start - index) + length by omega, Nat.add_mod_right,
        Nat.mod_eq_of_lt (by omega)]
      omega
    · rw [Nat.mod_eq_of_lt (by omega)]; omega

theorem slotsLeft_le {length start index : Nat} (h : start < length) : slotsLeft length start index ≤ length := by
  unfold slotsLeft
  split
  · omega
  · exact Nat.le_of_lt (Nat.mod_lt _ (by omega))

@[simp] theorem slotsLeft_self (length start : Nat) : slotsLeft length start start = length := by simp [slotsLeft]

/-- One slot passed without coming round leaves one slot fewer. -/
theorem slotsLeft_next {length start index : Nat} (h1 : start < length) (h2 : index < length)
    (h : (index + 1) % length ≠ start) :
    slotsLeft length start ((index + 1) % length) + 1 = slotsLeft length start index := by
  have e : ∀ x, x < length → x % length = x := fun x h => Nat.mod_eq_of_lt h
  have e2 : ∀ x, x < length → (x + length) % length = x := fun x h => by rw [Nat.add_mod_right, e x h]
  unfold slotsLeft
  rw [if_neg h]
  by_cases h3 : index + 1 = length
  · rw [h3, Nat.mod_self] at h ⊢
    rw [Nat.sub_zero, e2 start h1]
    split
    · omega
    · rw [e _ (by omega)]; omega
  · rw [e (index + 1) (by omega)] at h ⊢
    split
    · subst start; rw [e _ (by omega)]; omega
    · by_cases hh : index < start
      · rw [show start + length - index = (start - index) + length by omega, e2 _ (by omega),
          show start + length - (index + 1) = (start - (index + 1)) + length by omega, e2 _ (by omega)]
        omega
      · rw [e _ (by omega), e _ (by omega)]; omega

/-! ## Positions of an Event Ring -/

theorem nextIndex_lt {r : EventRing} (h : r.segs ≠ []) : nextIndex r < r.segs.length := by
  have := List.length_pos_iff.2 h
  unfold nextIndex
  split <;> omega

theorem nextSlot_isSome {r : EventRing} (h : r.segs ≠ []) : ∃ a, nextSlot r = some a := by
  unfold nextSlot
  split
  · simp [nextIndex_lt h]
  · exact ⟨_, rfl⟩

theorem advance_isSome {r : EventRing} (h : r.segs ≠ []) : ∃ r', advance r = some r' := by
  unfold advance
  split
  · simp [enterSegment, nextIndex_lt h]
  · exact ⟨_, rfl⟩

/-- `write_advance` does not touch the segment table or the dequeue pointer. -/
theorem advance_kept {r r' : EventRing} (h : advance r = some r') :
    r'.segs = r.segs ∧ r'.dequeuePointer = r.dequeuePointer := by
  unfold advance at h
  split at h
  · unfold enterSegment at h
    split at h <;> cases h
    exact ⟨rfl, rfl⟩
  · cases h; exact ⟨rfl, rfl⟩

theorem capValid_iff {g : Segment} : capValid g = true ↔ 16 ≤ g.cap ∧ g.cap ≤ 4096 := by
  simp [capValid, Config.segMin, Config.segMax]

/-- `write_advance` keeps what the spec says of an Event Ring between operations. -/
theorem advance_ok {r r' : EventRing} (h : r.ok) (ha : advance r = some r') : r'.ok := by
  obtain ⟨h1, h2, h3, h4⟩ := h
  unfold advance at ha
  split at ha
  · unfold enterSegment at ha
    split at ha <;> cases ha
    rename_i g hg
    obtain ⟨hl, hu⟩ := capValid_iff.1 (h2 g (List.mem_of_getElem? hg))
    exact ⟨h1, h2, Nat.le_trans (by decide) hl, hu⟩
  · cases ha
    exact ⟨h1, h2, by show 1 ≤ r.remaining - 1; omega, Nat.le_trans (Nat.sub_le _ _) h4⟩

theorem capValid_of_firstBadFrom {l : List Segment} {i : Nat} (h : firstBadFrom i l = none) :
    ∀ g ∈ l, capValid g = true := by
  induction l generalizing i with
  | nil => simp
  | cons g l ih =>
    unfold firstBadFrom at h
    split at h
    · intro x hx
      rcases List.mem_cons.1 hx with rfl | hx
      · assumption
      · exact ih h x hx
    · cases h

theorem firstBadFrom_eq_none {l : List Segment} (i : Nat) (h : ∀ g ∈ l, capValid g = true) : firstBadFrom i l = none := by
  induction l generalizing i with
  | nil => rfl
  | cons g l ih =>
    rw [firstBadFrom, if_pos (h g (List.mem_cons_self ..))]
    exact ih _ fun x hx => h x (List.mem_cons_of_mem _ hx)

/-- The descriptor `read_table` reports: the first in table order with a bad capacity. -/
theorem firstBadFrom_eq_some {l : List Segment} {bad : Segment} {k : Nat} (i : Nat) (hk : l[k]? = some bad)
    (hb : capValid bad = false) (hj : ∀ j < k, ∀ g, l[j]? = some g → capValid g = true) :
    firstBadFrom i l = some (i + k) := by
  induction l generalizing i k with
  | nil => simp at hk
  | cons g l ih =>
    cases k with
    | zero =>
      obtain rfl : g = bad := by simpa using hk
      simp [firstBadFrom, hb]
    | succ k =>
      rw [firstBadFrom, if_pos (hj 0 (Nat.succ_pos k) g rfl),
        ih (i + 1) (by simpa using hk) fun j h x hx => hj (j + 1) (Nat.succ_lt_succ h) x (by simpa using hx)]
      congr 1
      omega

end Sys2Proof.Machine
end

