-- ==== Sys2Proof/Tests/Slice0.lean ====
section
/-! SUPPORT. The model's own tests: ill-formed terms refused, words written out from the spec's encodings, single steps
on small states with results from the worked vectors of spec/95_test_vectors.md, and a witness for the hypotheses of
every obligation. -/
namespace Sys2Proof.Tests
open Sys2Proof Sys2Proof.Machine

/-! ## The well-formedness check refuses ill-formed terms: one term per check -/

theorem test_wf_refuses_wide_identifiers :
    (Instr.crCreate 18446744073709551616 .command 0).wf = false ∧
    (Instr.crUpdateFromGuest 18446744073709551616).wf = false ∧
    (Instr.crReset 18446744073709551616 0).wf = false ∧
    (Instr.crDequeueTrb 18446744073709551616).wf = false ∧
    (Instr.crDequeueWorkItem 18446744073709551616).wf = false ∧
    (Instr.erCreate 18446744073709551616 0 1 0).wf = false ∧
    (Instr.erIsFull 18446744073709551616).wf = false ∧
    (Instr.erEnqueue 18446744073709551616 Trb.zero).wf = false ∧
    (Instr.erUpdateDequeuePointer 18446744073709551616 0).wf = false ∧
    (Instr.erUpdateSegmentTable 18446744073709551616 0 1).wf = false := by decide

theorem test_wf_refuses_wide_table_counts :
    (Instr.erCreate 0 0 18446744073709551616 0).wf = false ∧
    (Instr.erUpdateSegmentTable 0 0 18446744073709551616).wf = false := by decide

theorem test_wf_refuses_long_sequences (trbs : List Trb) (h : trbs.length = 18446744073709551616) :
    (Instr.cdFromTrbs trbs).wf = false ∧ (Instr.tdFromTrbs trbs).wf = false ∧
    (Instr.tdTransferSize trbs).wf = false := by
  simp [Instr.wf, h]

/-! ## Decoding: words written out from spec/30_encoding.md R101, R108 and R117 -/

/-- Types 1 to 7, cycle bit 1 (the words of spec/40_trb_types.md R141 to R147). -/
theorem test_decode_transfer_class_and_link :
    decode .ring [0, 0, 0, 0, 0, 0, 0, 0, 0, 0, 0, 0, 0x01, 0x04, 0, 0] = .ok (.normal ⟨0, 0, 0, 0, false, 0, true⟩) ∧
    decode .ring [0, 0, 0, 0, 0, 0, 0, 0, 0, 0, 0, 0, 0x01, 0x08, 0, 0] = .ok (.setupStage ⟨0, 0, 0, 0, false, 0, true⟩) ∧
    decode .ring [0, 0, 0, 0, 0, 0, 0, 0, 0, 0, 0, 0, 0x01, 0x0C, 0, 0] = .ok (.dataStage ⟨0, 0, 0, 0, false, 0, true⟩) ∧
    decode .ring [0, 0, 0, 0, 0, 0, 0, 0, 0, 0, 0, 0, 0x01, 0x10, 0, 0] = .ok (.statusStage ⟨0, 0, 0, 0, false, 0, true⟩) ∧
    decode .ring [0, 0, 0, 0, 0, 0, 0, 0, 0, 0, 0, 0, 0x01, 0x14, 0, 0] = .ok (.isoch ⟨0, 0, 0, 0, false, 0, true⟩) ∧
    decode .ring [0, 0, 0, 0, 0, 0, 0, 0, 0, 0, 0, 0, 0x01, 0x18, 0, 0] = .ok (.link ⟨0, 0, 0, 0, false, 0, false, true⟩) ∧
    decode .ring [0, 0, 0, 0, 0, 0, 0, 0, 0, 0, 0, 0, 0x01, 0x1C, 0, 0] = .ok (.eventData ⟨0, 0, 0, 0, true⟩) := by decide

/-- The command class, types 9 to 25 (R148, R149, R155). -/
theorem test_decode_command_class :
    decode .ring [0, 0, 0, 0, 0, 0, 0, 0, 0, 0, 0, 0, 0x01, 0x24, 0, 0] = .ok (.enableSlotCmd ⟨0, 0, 0, 0, true⟩) ∧
    decode .ring [0, 0, 0, 0, 0, 0, 0, 0, 0, 0, 0, 0, 0x01, 0x28, 0, 0] = .ok (.disableSlotCmd ⟨0, 0, 0, 0, true⟩) ∧
    decode .ring [0, 0, 0, 0, 0, 0, 0, 0, 0, 0, 0, 0, 0x01, 0x2C, 0, 0] = .ok (.addressDeviceCmd ⟨0, 0, 0, 0, true⟩) ∧
    decode .ring [0, 0, 0, 0, 0, 0, 0, 0, 0, 0, 0, 0, 0x01, 0x30, 0, 0] = .ok (.configureEndpointCmd ⟨0, 0, 0, 0, true⟩) ∧
    decode .ring [0, 0, 0, 0, 0, 0, 0, 0, 0, 0, 0, 0, 0x01, 0x34, 0, 0] = .ok (.evaluateContextCmd ⟨0, 0, 0, 0, true⟩) ∧
    decode .ring [0, 0, 0, 0, 0, 0, 0, 0, 0, 0, 0, 0, 0x01, 0x38, 0, 0] = .ok (.resetEndpointCmd ⟨0, 0, 0, 0, true⟩) ∧
    decode .ring [0, 0, 0, 0, 0, 0, 0, 0, 0, 0, 0, 0, 0x01, 0x3C, 0, 0] = .ok (.stopEndpointCmd ⟨0, 0, 0, 0, true⟩) ∧
    decode .ring [0, 0, 0, 0, 0, 0, 0, 0, 0, 0, 0, 0, 0x01, 0x40, 0, 0] = .ok (.setTrDequeuePointerCmd ⟨0, 0, 0, 0, true⟩) ∧
    decode .ring [0, 0, 0, 0, 0, 0, 0, 0, 0, 0, 0, 0, 0x01, 0x44, 0, 0] = .ok (.resetDeviceCmd ⟨0, 0, 0, 0, true⟩) ∧
    decode .ring [0, 0, 0, 0, 0, 0, 0, 0, 0, 0, 0, 0, 0x01, 0x48, 0, 0] = .ok (.forceEventCmd ⟨0, 0, 0, 0, true⟩) ∧
    decode .ring [0, 0, 0, 0, 0, 0, 0, 0, 0, 0, 0, 0, 0x01, 0x4C, 0, 0] = .ok (.negotiateBandwidthCmd ⟨0, 0, 0, 0, true⟩) ∧
    decode .ring [0, 0, 0, 0, 0, 0, 0, 0, 0, 0, 0, 0, 0x01, 0x50, 0, 0] = .ok (.setLatencyToleranceValueCmd ⟨0, 0, 0, 0, true⟩) ∧
    decode .ring [0, 0, 0, 0, 0, 0, 0, 0, 0, 0, 0, 0, 0x01, 0x54, 0, 0] = .ok (.getPortBandwidthCmd ⟨0, 0, 0, 0, true⟩) ∧
    decode .ring [0, 0, 0, 0, 0, 0, 0, 0, 0, 0, 0, 0, 0x01, 0x58, 0, 0] = .ok (.forceHeaderCmd ⟨0, 0, 0, 0, true⟩) ∧
    decode .ring [0, 0, 0, 0, 0, 0, 0, 0, 0, 0, 0, 0, 0x01, 0x5C, 0, 0] = .ok (.noOpCmd ⟨0, 0, 0, 0, true⟩) ∧
    decode .ring [0, 0, 0, 0, 0, 0, 0, 0, 0, 0, 0, 0, 0x01, 0x60, 0, 0] = .ok (.getExtendedPropertyCmd ⟨0, 0, 0, 0, true⟩) ∧
    decode .ring [0, 0, 0, 0, 0, 0, 0, 0, 0, 0, 0, 0, 0x01, 0x64, 0, 0] = .ok (.setExtendedPropertyCmd ⟨0, 0, 0, 0, true⟩) := by decide

/-- The event class, types 32 to 34 and 37 to 39 (R150 to R154, R157), and 35, 36 (R156). -/
theorem test_decode_event_class :
    decode .ring [0, 0, 0, 0, 0, 0, 0, 0, 0, 0, 0, 0, 0x01, 0x80, 0, 0] = .ok (.transferEvent ⟨0, 0, 0, 0, true⟩) ∧
    decode .ring [0, 0, 0, 0, 0, 0, 0, 0, 0, 0, 0, 0, 0x01, 0x84, 0, 0] = .ok (.commandCompletionEvent ⟨0, 0, 0, 0, true⟩) ∧
    decode .ring [0, 0, 0, 0, 0, 0, 0, 0, 0, 0, 0, 0, 0x01, 0x88, 0, 0] = .ok (.portStatusChangeEvent ⟨0, 0, 0, 0, true⟩) ∧
    decode .ring [0, 0, 0, 0, 0, 0, 0, 0, 0, 0, 0, 0, 0x01, 0x8C, 0, 0] = .ok (.bandwidthRequestEvent ⟨0, 0, 0, 0, true⟩) ∧
    decode .ring [0, 0, 0, 0, 0, 0, 0, 0, 0, 0, 0, 0, 0x01, 0x90, 0, 0] = .ok (.doorbellEvent ⟨0, 0, 0, 0, true⟩) ∧
    decode .ring [0, 0, 0, 0, 0, 0, 0, 0, 0, 0, 0, 0, 0x01, 0x94, 0, 0] = .ok (.hostControllerEvent ⟨0, 0, 0, 0, true⟩) ∧
    decode .ring [0, 0, 0, 0, 0, 0, 0, 0, 0, 0, 0, 0, 0x01, 0x98, 0, 0] = .ok (.deviceNotificationEvent ⟨0, 0, 0, 0, true⟩) ∧
    decode .ring [0, 0, 0, 0, 0, 0, 0, 0, 0, 0, 0, 0, 0x01, 0x9C, 0, 0] = .ok (.mfIndexWrapEvent ⟨0, 0, 0, 0, true⟩) := by decide

/-- Types 0, 8, 26 to 31 (R156). -/
theorem test_decode_unnamed_low :
    decode .ring [0, 0, 0, 0, 0, 0, 0, 0, 0, 0, 0, 0, 0x01, 0x00, 0, 0] = .ok (.reserved0 ⟨0, 0, 0, 0, true⟩) ∧
    decode .ring [0, 0, 0, 0, 0, 0, 0, 0, 0, 0, 0, 0, 0x01, 0x20, 0, 0] = .ok (.noOp ⟨0, 0, 0, 0, true⟩) ∧
    decode .ring [0, 0, 0, 0, 0, 0, 0, 0, 0, 0, 0, 0, 0x01, 0x68, 0, 0] = .ok (.reserved26 ⟨0, 0, 0, 0, true⟩) ∧
    decode .ring [0, 0, 0, 0, 0, 0, 0, 0, 0, 0, 0, 0, 0x01, 0x6C, 0, 0] = .ok (.reserved27 ⟨0, 0, 0, 0, true⟩) ∧
    decode .ring [0, 0, 0, 0, 0, 0, 0, 0, 0, 0, 0, 0, 0x01, 0x70, 0, 0] = .ok (.reserved28 ⟨0, 0, 0, 0, true⟩) ∧
    decode .ring [0, 0, 0, 0, 0, 0, 0, 0, 0, 0, 0, 0, 0x01, 0x74, 0, 0] = .ok (.reserved29 ⟨0, 0, 0, 0, true⟩) ∧
    decode .ring [0, 0, 0, 0, 0, 0, 0, 0, 0, 0, 0, 0, 0x01, 0x78, 0, 0] = .ok (.reserved30 ⟨0, 0, 0, 0, true⟩) ∧
    decode .ring [0, 0, 0, 0, 0, 0, 0, 0, 0, 0, 0, 0, 0x01, 0x7C, 0, 0] = .ok (.reserved31 ⟨0, 0, 0, 0, true⟩) := by decide

/-- Types 40 to 51 (R156). -/
theorem test_decode_unnamed_40_to_51 :
    decode .ring [0, 0, 0, 0, 0, 0, 0, 0, 0, 0, 0, 0, 0x01, 0xA0, 0, 0] = .ok (.reserved40 ⟨0, 0, 0, 0, true⟩) ∧
    decode .ring [0, 0, 0, 0, 0, 0, 0, 0, 0, 0, 0, 0, 0x01, 0xA4, 0, 0] = .ok (.reserved41 ⟨0, 0, 0, 0, true⟩) ∧
    decode .ring [0, 0, 0, 0, 0, 0, 0, 0, 0, 0, 0, 0, 0x01, 0xA8, 0, 0] = .ok (.reserved42 ⟨0, 0, 0, 0, true⟩) ∧
    decode .ring [0, 0, 0, 0, 0, 0, 0, 0, 0, 0, 0, 0, 0x01, 0xAC, 0, 0] = .ok (.reserved43 ⟨0, 0, 0, 0, true⟩) ∧
    decode .ring [0, 0, 0, 0, 0, 0, 0, 0, 0, 0, 0, 0, 0x01, 0xB0, 0, 0] = .ok (.reserved44 ⟨0, 0, 0, 0, true⟩) ∧
    decode .ring [0, 0, 0, 0, 0, 0, 0, 0, 0, 0, 0, 0, 0x01, 0xB4, 0, 0] = .ok (.reserved45 ⟨0, 0, 0, 0, true⟩) ∧
    decode .ring [0, 0, 0, 0, 0, 0, 0, 0, 0, 0, 0, 0, 0x01, 0xB8, 0, 0] = .ok (.reserved46 ⟨0, 0, 0, 0, true⟩) ∧
    decode .ring [0, 0, 0, 0, 0, 0, 0, 0, 0, 0, 0, 0, 0x01, 0xBC, 0, 0] = .ok (.reserved47 ⟨0, 0, 0, 0, true⟩) ∧
    decode .ring [0, 0, 0, 0, 0, 0, 0, 0, 0, 0, 0, 0, 0x01, 0xC0, 0, 0] = .ok (.reserved48 ⟨0, 0, 0, 0, true⟩) ∧
    decode .ring [0, 0, 0, 0, 0, 0, 0, 0, 0, 0, 0, 0, 0x01, 0xC4, 0, 0] = .ok (.reserved49 ⟨0, 0, 0, 0, true⟩) ∧
    decode .ring [0, 0, 0, 0, 0, 0, 0, 0, 0, 0, 0, 0, 0x01, 0xC8, 0, 0] = .ok (.reserved50 ⟨0, 0, 0, 0, true⟩) ∧
    decode .ring [0, 0, 0, 0, 0, 0, 0, 0, 0, 0, 0, 0, 0x01, 0xCC, 0, 0] = .ok (.reserved51 ⟨0, 0, 0, 0, true⟩) := by decide

/-- Types 52 to 63 (R156). -/
theorem test_decode_unnamed_52_to_63 :
    decode .ring [0, 0, 0, 0, 0, 0, 0, 0, 0, 0, 0, 0, 0x01, 0xD0, 0, 0] = .ok (.reserved52 ⟨0, 0, 0, 0, true⟩) ∧
    decode .ring [0, 0, 0, 0, 0, 0, 0, 0, 0, 0, 0, 0, 0x01, 0xD4, 0, 0] = .ok (.reserved53 ⟨0, 0, 0, 0, true⟩) ∧
    decode .ring [0, 0, 0, 0, 0, 0, 0, 0, 0, 0, 0, 0, 0x01, 0xD8, 0, 0] = .ok (.reserved54 ⟨0, 0, 0, 0, true⟩) ∧
    decode .ring [0, 0, 0, 0, 0, 0, 0, 0, 0, 0, 0, 0, 0x01, 0xDC, 0, 0] = .ok (.reserved55 ⟨0, 0, 0, 0, true⟩) ∧
    decode .ring [0, 0, 0, 0, 0, 0, 0, 0, 0, 0, 0, 0, 0x01, 0xE0, 0, 0] = .ok (.reserved56 ⟨0, 0, 0, 0, true⟩) ∧
    decode .ring [0, 0, 0, 0, 0, 0, 0, 0, 0, 0, 0, 0, 0x01, 0xE4, 0, 0] = .ok (.reserved57 ⟨0, 0, 0, 0, true⟩) ∧
    decode .ring [0, 0, 0, 0, 0, 0, 0, 0, 0, 0, 0, 0, 0x01, 0xE8, 0, 0] = .ok (.reserved58 ⟨0, 0, 0, 0, true⟩) ∧
    decode .ring [0, 0, 0, 0, 0, 0, 0, 0, 0, 0, 0, 0, 0x01, 0xEC, 0, 0] = .ok (.reserved59 ⟨0, 0, 0, 0, true⟩) ∧
    decode .ring [0, 0, 0, 0, 0, 0, 0, 0, 0, 0, 0, 0, 0x01, 0xF0, 0, 0] = .ok (.reserved60 ⟨0, 0, 0, 0, true⟩) ∧
    decode .ring [0, 0, 0, 0, 0, 0, 0, 0, 0, 0, 0, 0, 0x01, 0xF4, 0, 0] = .ok (.reserved61 ⟨0, 0, 0, 0, true⟩) ∧
    decode .ring [0, 0, 0, 0, 0, 0, 0, 0, 0, 0, 0, 0, 0x01, 0xF8, 0, 0] = .ok (.reserved62 ⟨0, 0, 0, 0, true⟩) ∧
    decode .ring [0, 0, 0, 0, 0, 0, 0, 0, 0, 0, 0, 0, 0x01, 0xFC, 0, 0] = .ok (.reserved63 ⟨0, 0, 0, 0, true⟩) := by decide

/-- The rows of V1 of spec/95_test_vectors.md that set more than the type. -/
theorem test_decode_fields :
    decode .ring [0x88, 0x77, 0x66, 0x55, 0x44, 0x33, 0x22, 0x11, 0x08, 0, 0, 0, 0x01, 0x08, 0, 0]
      = .ok (.setupStage ⟨0x1122334455667788, 8, 0, 0, false, 0, true⟩) ∧
    decode .ring [0, 0x50, 0, 0, 0, 0, 0, 0, 0, 0x02, 0, 0, 0x11, 0x04, 0, 0]
      = .ok (.normal ⟨0x5000, 0x200, 0, 0, true, 0, true⟩) ∧
    decode .ring [0, 0x10, 0, 0, 0, 0, 0, 0, 0, 0, 0, 0, 0x02, 0x18, 0, 0]
      = .ok (.link ⟨0x1000, 0, 0, 0, false, 0, true, false⟩) ∧
    decode .ring [0, 0, 0, 0, 0, 0, 0, 0, 0, 0, 0, 0x15, 0x01, 0x94, 0, 0]
      = .ok (.hostControllerEvent ⟨0, 0x15000000, 0, 0, true⟩) := by decide

/-- Requests of a Consumer Ring: operation code, identifier 2, operands (log entry 4). -/
theorem test_decode_consumer_requests :
    decode .port ([0x01] ++ [2, 0, 0, 0, 0, 0, 0, 0] ++ [1] ++ [0, 0x10, 0, 0, 0, 0, 0, 0])
      = .ok (.crCreate 2 .transfer 0x1000) ∧
    decode .port ([0x02] ++ [2, 0, 0, 0, 0, 0, 0, 0]) = .ok (.crUpdateFromGuest 2) ∧
    decode .port ([0x03] ++ [2, 0, 0, 0, 0, 0, 0, 0] ++ [0xE0, 0x10, 0, 0, 0, 0, 0, 0])
      = .ok (.crReset 2 0x10E0) ∧
    decode .port ([0x04] ++ [2, 0, 0, 0, 0, 0, 0, 0]) = .ok (.crDequeueTrb 2) ∧
    decode .port ([0x05] ++ [2, 0, 0, 0, 0, 0, 0, 0]) = .ok (.crDequeueWorkItem 2) := by decide

/-- Requests of an Event Ring. -/
theorem test_decode_event_requests :
    decode .port ([0x10] ++ [3, 0, 0, 0, 0, 0, 0, 0] ++ [0, 0x20, 0, 0, 0, 0, 0, 0] ++ [2, 0, 0, 0, 0, 0, 0, 0] ++
      [0, 4, 0, 0, 0, 0, 0, 0]) = .ok (.erCreate 3 0x2000 2 0x400) ∧
    decode .port ([0x11] ++ [3, 0, 0, 0, 0, 0, 0, 0]) = .ok (.erIsFull 3) ∧
    decode .port ([0x12] ++ [3, 0, 0, 0, 0, 0, 0, 0] ++ [0, 0, 0, 0, 0, 0, 0, 0, 0, 0, 0, 0x15, 0x00, 0x94, 0, 0])
      = .ok (.erEnqueue 3 ⟨0, 0x15000000, 0x00009400⟩) ∧
    decode .port ([0x13] ++ [3, 0, 0, 0, 0, 0, 0, 0] ++ [0x80, 4, 0, 0, 0, 0, 0, 0])
      = .ok (.erUpdateDequeuePointer 3 0x480) ∧
    decode .port ([0x14] ++ [3, 0, 0, 0, 0, 0, 0, 0] ++ [0, 0x20, 0, 0, 0, 0, 0, 0] ++ [1, 0, 0, 0, 0, 0, 0, 0])
      = .ok (.erUpdateSegmentTable 3 0x2000 1) := by decide

/-- Requests of the builders. -/
theorem test_decode_builder_requests :
    decode .port ([0x20] ++ [0x10, 0x20, 0, 0, 0, 0, 0, 0] ++ [8, 0, 0, 0, 0, 0, 0, 0] ++ [1, 0, 0, 0, 0, 0, 0, 0] ++
      [3, 0, 0, 0, 0, 0, 0, 0] ++ [13, 0, 0, 0, 0, 0, 0, 0]) = .ok (.evTransfer 0x2010 8 1 3 13) ∧
    decode .port ([0x21] ++ [1, 0, 0, 0, 0, 0, 0, 0] ++ [2, 0, 0, 0, 0, 0, 0, 0] ++ [0, 0x10, 0, 0, 0, 0, 0, 0])
      = .ok (.evCommandCompletion 1 2 0x1000) ∧
    decode .port ([0x22] ++ [5, 1, 0, 0, 0, 0, 0, 0]) = .ok (.evPortStatusChange 0x105) ∧
    decode .port ([0x23] ++ [21, 0, 0, 0, 0, 0, 0, 0]) = .ok (.evHostController 21) ∧
    decode .port ([0x24] ++ [4, 0, 0, 0, 0, 0, 0, 0] ++ [1, 0, 0, 0, 0, 0, 0, 0] ++ [0xCD, 0xAB, 0, 0, 0, 0, 0, 0])
      = .ok (.evDeviceNotification 4 1 0xABCD) ∧
    decode .port [0x25] = .ok .evMfindexWrap := by decide

/-- Requests of the descriptor constructors and the accessor, each of one TRB or none. -/
theorem test_decode_descriptor_requests :
    decode .port ([0x30] ++ [1, 0, 0, 0, 0, 0, 0, 0] ++ [0, 0, 0, 0, 0, 0, 0, 0, 0, 0, 0, 0, 0x01, 0x24, 0, 0])
      = .ok (.cdFromTrbs [⟨0, 0, 0x2401⟩]) ∧
    decode .port ([0x31] ++ [1, 0, 0, 0, 0, 0, 0, 0] ++ [0, 0, 0, 0, 0, 0, 0, 0, 8, 0, 0, 0, 0x01, 0x04, 0, 0])
      = .ok (.tdFromTrbs [⟨0, 8, 0x401⟩]) ∧
    decode .port ([0x32] ++ [0, 0, 0, 0, 0, 0, 0, 0]) = .ok (.tdTransferSize []) := by decide

/-- What is no request is rejected by name (R118). -/
theorem test_decode_rejects :
    decode .port [0x06] = .error (.unknownOperation 0x06) ∧
    decode .port [0x33] = .error (.unknownOperation 0x33) ∧
    decode .port [] = .error .truncated ∧
    decode .port ([0x02] ++ [2, 0, 0, 0, 0, 0, 0]) = .error .truncated ∧
    decode .port [0x25, 0] = .error .trailingBytes ∧
    decode .port ([0x01] ++ [0, 0, 0, 0, 0, 0, 0, 0] ++ [2]) = .error (.badKind 2) ∧
    decode .ring [0, 0] = .error .badRecordLength := by decide

/-! ## Small states and what a step answers -/

/-- A Consumer Ring 0 at base 0x1000, with the given shadow copy, index and `ccs`; nothing else. -/
def ring (kind : RingKind) (shadow : List Trb) (index : Nat) (ccs : Bool) : State :=
  { State.reset with instances := [(0, .consumer ⟨kind, 0x1000, shadow, index, ccs⟩)] }

/-- A dequeue in progress on that ring, from the start of the circuit. -/
def walking (kind : RingKind) (shadow : List Trb) (index : Nat) (gather : Option Gather) : State :=
  { ring kind shadow index true with activity := .dequeue 0 index gather }

/-- A refresh in progress on that ring. -/
def refreshing (gathered : List Trb) (addr : Addr) (mem : Memory) : State :=
  { ring .transfer [] 0 true with activity := .refresh 0 gathered addr, mem := mem }

/-- An Event Ring 0. -/
def events (r : EventRing) (mem : Memory) : State := { State.reset with instances := [(0, .event r)], mem := mem }

/-- The single-segment ring of V8 of spec/95_test_vectors.md, fresh but for the acknowledged address. -/
def fresh (dequeue : Option Addr) : EventRing := ⟨[⟨0x400, 16⟩], 0, 16, 0x400, true, dequeue⟩

/-- Sixteen bytes of zeros at an address: one empty slot the service accepts. -/
def emptySlot (a : Addr) : Memory := writeBytes [] a Trb.zero.toBytes

/-- The state a next outcome holds (the reset state for another outcome, which no test relies on). -/
def after (r : Result) : State :=
  match r with
  | .next t => t
  | .fault _ => State.reset
  | .refused _ => State.reset

/-- The Consumer Ring 0 of a state. -/
def position (s : State) : Option (Nat × Bool) :=
  match findInst s.instances 0 with
  | some (.consumer c) => some (c.dequeueIndex, c.ccs)
  | some (.event _) => none
  | none => none

def normal1 : Trb := ⟨1, 0, 0x401⟩
def chained : Trb := ⟨0xA, 16, 0x411⟩
def closing : Trb := ⟨0x1000, 0, 0x1803⟩
def plainLink : Trb := ⟨0x1000, 0, 0x1801⟩

/-! ## One step, with results from spec/95_test_vectors.md -/

/-- The example of R181. -/
theorem test_cr_create :
    (after (exec (.crCreate 7 .command 0x1000) State.reset)).instances
      = [(7, .consumer ⟨.command, 0x1000, [], 0, true⟩)] := by decide

/-- V3 rows 2 and 6. -/
theorem test_cr_reset :
    position (after (exec (.crReset 0 0x10E0) (ring .transfer [] 0 true))) = some (14, true) ∧
    position (after (exec (.crReset 0 0x0FF0) (ring .transfer [] 0 false))) = some (1152921504606846975, false) := by
  decide

/-- V2 row 10: the shortest ring closes on its first record. -/
theorem test_refresh_closes :
    (after (step (refreshing [] 0x1000 (writeBytes [] 0x1000 closing.toBytes)))).instances
      = [(0, .consumer ⟨.transfer, 0x1000, [closing], 0, true⟩)] := by decide

/-- V2 row 3: a failing read is reported with its address. -/
theorem test_refresh_read_fails :
    (after (step (refreshing [normal1] 0x1100 []))).result = some (.error (.eMem 0x1100)) := by decide

/-- V4 row 1: the data record is returned, the index moves. -/
theorem test_walk_returns_data :
    (after (step (walking .transfer [normal1, ⟨0x1000, 0, 0x1802⟩] 0 none))).result = some (.ok (.trb (some normal1))) ∧
    position (after (step (walking .transfer [normal1, ⟨0x1000, 0, 0x1802⟩] 0 none))) = some (1, true) := by decide

/-- V4 row 2, second call: the toggling Link is passed, the walk goes on at slot 0. -/
theorem test_walk_passes_link :
    position (after (step (walking .transfer [normal1, closing] 1 none))) = some (0, false) ∧
    (after (step (walking .transfer [normal1, closing] 1 none))).activity = .dequeue 0 1 none := by decide

/-- V4 row 6: the full circuit of one slot; `ccs` is not restored. -/
theorem test_walk_full_circuit :
    (after (step (walking .transfer [closing] 0 none))).result = some (.ok (.trb none)) ∧
    position (after (step (walking .transfer [closing] 0 none))) = some (0, false) := by decide

/-- V4 row 8: an index out of range reads as empty. -/
theorem test_dequeue_out_of_range :
    (after (exec (.crDequeueTrb 0) (ring .transfer [normal1, closing] 2 true))).result = some (.ok (.trb none)) := by
  decide

/-- V5 row 13: before the first refresh there is no work. -/
theorem test_work_item_empty :
    (after (exec (.crDequeueWorkItem 0) (ring .transfer [] 0 true))).result = some (.ok .noWork) := by decide

/-- V5 row 1: a chained record is gathered; at the unavailable slot after it the item is rolled back. -/
theorem test_work_item_incomplete :
    (after (step (walking .transfer [chained, ⟨0xB, 16, 0x400⟩, closing] 0 (some ⟨0, true, [], 0⟩)))).activity
      = .dequeue 0 1 (some ⟨0, true, [chained], 1⟩) ∧
    (after (step (walking .transfer [chained, ⟨0xB, 16, 0x400⟩, closing] 1 (some ⟨0, true, [chained], 1⟩)))).result
      = some (.error .eIncomplete) ∧
    position (after (step (walking .transfer [chained, ⟨0xB, 16, 0x400⟩, closing] 1 (some ⟨0, true, [chained], 1⟩))))
      = some (0, true) := by decide

/-- V5 row 6: the chain that comes round. -/
theorem test_work_item_cyclic :
    (after (step (walking .transfer [chained, chained, chained, plainLink] 0 (some ⟨1, true, [chained, chained], 3⟩)))).result
      = some (.error .eCyclicIncomplete) ∧
    position (after (step (walking .transfer [chained, chained, chained, plainLink] 0
      (some ⟨1, true, [chained, chained], 3⟩)))) = some (1, true) := by decide

/-- V5 row 9: an EventData record ends the work item although its bit 4 is set. -/
theorem test_event_data_ends_item :
    (after (step (walking .transfer [chained, ⟨0x55, 0, 0x1C11⟩, closing] 1 (some ⟨0, true, [chained], 1⟩)))).result
      = some (.ok (.item (.transfer [chained, ⟨0x55, 0, 0x1C11⟩]))) := by decide

/-- V5 row 12: a chain of two on a Command Ring is a size mismatch and is consumed. -/
theorem test_command_arity_on_ring :
    (after (step (walking .command [chained, ⟨0, 0, 0x5C01⟩] 1 (some ⟨0, true, [chained], 1⟩)))).result
      = some (.error (.eSizeMismatch 2)) ∧
    position (after (step (walking .command [chained, ⟨0, 0, 0x5C01⟩, closing] 1 (some ⟨0, true, [chained], 1⟩))))
      = some (2, true) := by decide

/-- S3, V6, S6: the descriptor operations. -/
theorem test_descriptor_operations :
    (after (exec (.tdTransferSize [⟨0, 0, 0x411⟩, ⟨0, 8, 0x401⟩]) State.reset)).result = some (.ok (.size 8)) ∧
    (after (exec (.tdTransferSize [⟨0, 0xFFFFFFFF, 0x401⟩]) State.reset)).result = some (.ok (.size 131071)) ∧
    (after (exec (.cdFromTrbs []) State.reset)).result = some (.error (.eSizeMismatch 0)) ∧
    (after (exec (.cdFromTrbs [⟨0, 0, 0x2401⟩]) State.reset)).result
      = some (.ok (.descriptor (.command ⟨0, 0, 0x2401⟩))) ∧
    (after (exec (.tdFromTrbs [normal1]) State.reset)).result = some (.ok (.descriptor (.transfer [normal1]))) := by
  decide

/-- V9: the builders, every operand too wide in the second. -/
theorem test_builders :
    (after (exec (.evTransfer 0x2010 8 1 3 1) State.reset)).result
      = some (.ok (.event ⟨0x2010, 0x01000008, 0x01038000⟩)) ∧
    (after (exec (.evTransfer 0xFFFFFFFFFFFFFFFF 0x1FFFFFF 0x1FF 0x3F 0x1FF) State.reset)).result
      = some (.ok (.event ⟨0xFFFFFFFFFFFFFFFF, 0xFFFFFFFF, 0xFF1F8000⟩)) ∧
    (after (exec (.evCommandCompletion 1 2 0x1000) State.reset)).result
      = some (.ok (.event ⟨0x1000, 0x01000000, 0x02008400⟩)) ∧
    (after (exec (.evPortStatusChange 0x105) State.reset)).result
      = some (.ok (.event ⟨0x05000000, 0x01000000, 0x00008800⟩)) ∧
    (after (exec (.evHostController 21) State.reset)).result = some (.ok (.event ⟨0, 0x15000000, 0x00009400⟩)) ∧
    (after (exec (.evDeviceNotification 4 1 0xABCD) State.reset)).result
      = some (.ok (.event ⟨0xABCD10, 0x01000000, 0x04009800⟩)) ∧
    (after (exec .evMfindexWrap State.reset)).result = some (.ok (.event ⟨0, 0x01000000, 0x00009C00⟩)) := by decide

/-- V7 row 2: capacity 15 is refused; row 4: 4096 is accepted. -/
theorem test_er_create_validates :
    (after (step { State.reset with
      activity := .readTable 0 (.create 0x400) 0 1 []
      mem := writeBytes [] 0 [0, 4, 0, 0, 0, 0, 0, 0, 15, 0, 0, 0, 0, 0, 0, 0] })).result
      = some (.error (.eInvalidSegmentSize 0)) ∧
    (after (step { State.reset with
      activity := .readTable 0 (.create 0x400) 0 1 []
      mem := writeBytes [] 0 [0, 4, 0, 0, 0, 0, 0, 0, 0, 0x10, 0xFF, 0xFF, 0xFF, 0xFF, 0xFF, 0xFF] })).instances
      = [(0, .event ⟨[⟨0x400, 4096⟩], 0, 4096, 0x400, true, some 0x400⟩)] := by decide

/-- V7 row 1: the empty table is refused before any read; row 10: only `segs` is replaced. -/
theorem test_er_table_operations :
    (after (exec (.erCreate 0 0 0 0x400) State.reset)).result = some (.error .eEmptySegmentTable) ∧
    (after (step { events ⟨[⟨0x400, 16⟩, ⟨0x800, 16⟩], 1, 16, 0x800, true, some 0x400⟩
      (writeBytes [] 0 [0, 4, 0, 0, 0, 0, 0, 0, 16, 0, 0, 0, 0, 0, 0, 0]) with
      activity := .readTable 0 .update 0 1 [] })).instances
      = [(0, .event ⟨[⟨0x400, 16⟩], 1, 16, 0x800, true, some 0x400⟩)] := by decide

/-- V8 rows 1, 2, 3 and 5. -/
theorem test_er_is_full :
    (after (exec (.erIsFull 0) (events (fresh (some 0x400)) []))).result = some (.ok (.full false)) ∧
    (after (exec (.erIsFull 0) (events (fresh (some 0x410)) []))).result = some (.ok (.full true)) ∧
    (after (exec (.erIsFull 0) (events ⟨[⟨0x400, 16⟩], 0, 1, 0x4F0, true, some 0x400⟩ []))).result
      = some (.ok (.full true)) ∧
    (after (exec (.erIsFull 0) (events (fresh none) []))).result = some (.ok (.full true)) := by decide

/-- S4 step 1: the event stands at 0x400 with cycle bit 1. -/
theorem test_er_enqueue_writes :
    (after (exec (.erEnqueue 0 ⟨0x10010, 0x01000000, 0x01028000⟩) (events (fresh (some 0x400)) (emptySlot 0x400)))).mem
      = writeBytes [] 0x400 [0x10, 0, 1, 0, 0, 0, 0, 0, 0, 0, 0, 1, 0x01, 0x80, 0x02, 0x01] ∧
    (after (exec (.erEnqueue 0 ⟨0x10010, 0x01000000, 0x01028000⟩)
      (events (fresh (some 0x400)) (emptySlot 0x400)))).instances
      = [(0, .event ⟨[⟨0x400, 16⟩], 0, 15, 0x410, true, some 0x400⟩)] := by decide

/-- V8 row 4: the full-notification record at 0x4F0, the wrap, the unknown pointer; row 8: the failed write. -/
theorem test_er_enqueue_full_and_failed :
    (after (exec (.erEnqueue 0 normal1)
      (events ⟨[⟨0x400, 16⟩], 0, 1, 0x4F0, true, some 0x400⟩ (emptySlot 0x4F0)))).mem
      = writeBytes [] 0x4F0 [0, 0, 0, 0, 0, 0, 0, 0, 0, 0, 0, 0x15, 0x01, 0x94, 0, 0] ∧
    (after (exec (.erEnqueue 0 normal1)
      (events ⟨[⟨0x400, 16⟩], 0, 1, 0x4F0, true, some 0x400⟩ (emptySlot 0x4F0)))).instances
      = [(0, .event ⟨[⟨0x400, 16⟩], 0, 16, 0x400, false, none⟩)] ∧
    (after (exec (.erEnqueue 0 normal1) (events (fresh (some 0x410)) []))).result = some (.error (.eMem 0x400)) ∧
    (after (exec (.erEnqueue 0 normal1) (events (fresh (some 0x410)) []))).instances
      = [(0, .event (fresh (some 0x410)))] := by decide

/-- V8 row 6, first half. -/
theorem test_er_acknowledge :
    (after (exec (.erUpdateDequeuePointer 0 0x400) (events (fresh none) []))).instances
      = [(0, .event (fresh (some 0x400)))] := by decide

/-- The environment's turn: a poke before the read is what the read sees (R74). -/
theorem test_guest_store_between_steps :
    (after (step { refreshing [] 0x1000 (emptySlot 0x1000) with turns := [⟨[⟨0x1000, some 5⟩], false⟩] })).activity
      = .refresh 0 [⟨5, 0, 0⟩] 0x1010 ∧
    (after (step { refreshing [] 0x1000 (emptySlot 0x1000) with turns := [⟨[], true⟩] })).result
      = some (.error (.eMem 0x1000)) := by decide

/-- The event-status view of the example of R281, and no such view of a Normal record with the same status (R107). -/
theorem test_event_view_reads_the_tag_first :
    evtLen ⟨0x2010, 0x01000008, 0x01038000⟩ = some 8 ∧ evtCc ⟨0x2010, 0x01000008, 0x01038000⟩ = some 1 ∧
    evtLen ⟨0x2010, 0x01000008, 0x00000401⟩ = none ∧ evtCc ⟨0x2010, 0x01000008, 0x00000401⟩ = none := by decide

/-- A reset in the middle of a refresh: the instances are lost, guest memory is not touched (R351). -/
theorem test_reset_keeps_guest_memory :
    (resetBlock (refreshing [] 0x1000 (emptySlot 0x1000))).instances = [] ∧
    (resetBlock (refreshing [] 0x1000 (emptySlot 0x1000))).activity = .idle ∧
    (resetBlock (refreshing [] 0x1000 (emptySlot 0x1000))).mem = (refreshing [] 0x1000 (emptySlot 0x1000)).mem := by
  decide

/-- The numbers of R300. -/
theorem test_status_codes :
    statusCode (.ok .nothing) = 0 ∧ statusCode (.error (.eMem 0x1000)) = 1 ∧ statusCode (.error .eIncomplete) = 6 ∧
    statusCode (.error (.eventRingFull normal1 true)) = 9 ∧ statusCode (.error .eSegmentTableTooLarge) = 10 := by decide

/-- The instruction of a table word is what the next step runs, from reset (log entry 7). -/
theorem test_fetch_word :
    (after (step (State.reset.withFetchWord 32 0x00002401))).result = some (.ok (.trb (some ⟨0, 0, 0x2401⟩))) ∧
    (after (step (State.reset.withFetchWord 8 0x25))).result = some (.ok (.event ⟨0, 0x01000000, 0x9C00⟩)) ∧
    (after (step (State.reset.withFetchWord 8 0x02))).activity = .refresh 0 [] 0 := by decide

/-! ## Witnesses: concrete states and operands that meet the hypotheses of each obligation -/

/-- Whether an outcome is a next state. -/
def completes (r : Result) : Bool :=
  match r with
  | .next _ => true
  | .fault _ => false
  | .refused _ => false

theorem eq_next_after {r : Result} (h : completes r = true) : r = .next (after r) := by
  cases r <;> simp_all [completes, after]

theorem witness_EncodedInstructionDecodesBack :
    (Instr.erEnqueue 3 normal1).wf = true ∧ (Instr.crReset 18446744073709551615 0xFFFFFFFFFFFFFFFF).wf = true ∧
    (Instr.tdTransferSize [normal1, closing]).wf = true := by decide

/-- RecordIsLittleEndian, its last clause: a state whose memory holds the record. -/
theorem witness_RecordIsLittleEndian :
    memRead { State.reset with mem := writeBytes [] 0x1000 normal1.toBytes } 0x1000 = some normal1.toBytes := by decide

theorem witness_TagAndCycleInCommonPlace :
    (Instr.link ⟨0x1000, 0, 0, 0, false, 0, true, true⟩).trb? = some closing ∧
    (Instr.reserved63 ⟨0, 0, 0xFFFF, 0x1FF, true⟩).trb? = some ⟨0, 0, 0xFFFFFFFF⟩ := by decide

theorem witness_StepRunsDecodedInstruction_request :
    ({ State.reset with requests := [[0x25]] } : State).activity = .idle ∧
    ({ State.reset with requests := [[0x25]] } : State).requests = [0x25] :: [] ∧
    decode .port [0x25] = .ok .evMfindexWrap := by decide

theorem witness_StepRunsDecodedInstruction_refresh :
    (refreshing [] 0x1000 (emptySlot 0x1000)).activity = .refresh 0 [] 0x1000 ∧
    ([] : List Trb).length < (refreshing [] 0x1000 (emptySlot 0x1000)).params.maxRingTrbs ∧
    memRead (takeTurn (refreshing [] 0x1000 (emptySlot 0x1000))) 0x1000 = some Trb.zero.toBytes ∧
    decode .ring Trb.zero.toBytes = .ok (.reserved0 ⟨0, 0, 0, 0, false⟩) := by decide

theorem witness_StepRunsDecodedInstruction_walk :
    (walking .transfer [normal1, closing] 1 none).activity = .dequeue 0 1 none ∧
    findInst (walking .transfer [normal1, closing] 1 none).instances 0
      = some (.consumer ⟨.transfer, 0x1000, [normal1, closing], 1, true⟩) ∧
    [normal1, closing][1]? = some closing ∧
    decode .ring closing.toBytes = .ok (.link ⟨0x1000, 0, 0, 0, false, 0, true, true⟩) := by decide

theorem witness_MeaninglessRequestsRefused :
    State.reset.activity = .idle ∧
    (∀ code ∈ [(0 : Byte), 6, 0x0F, 0x15, 0x26, 0x2F, 0x33, 0xFF],
      code.toNat ∉ [1, 2, 3, 4, 5, 16, 17, 18, 19, 20, 32, 33, 34, 35, 36, 37, 48, 49, 50]) ∧
    (Instr.erIsFull 0).instId = some 0 ∧ findInst State.reset.instances 0 = none ∧
    findInst (events (fresh none) []).instances 0 = some (.event (fresh none)) ∧
    findInst (ring .command [] 0 true).instances 0 = some (.consumer ⟨.command, 0x1000, [], 0, true⟩) := by decide

theorem witness_MeaninglessRequestsRefused_not_create :
    (∀ kind base, Instr.erIsFull 0 ≠ .crCreate 0 kind base) ∧ (∀ a n d, Instr.erIsFull 0 ≠ .erCreate 0 a n d) := by simp

theorem witness_CrCreateMakesEmptyRing : State.reset.activity = .idle ∧
    roomFor State.reset.params.nConsumer true State.reset.instances 0 = true := by decide

/-- One Consumer Ring (Event Ring) allowed, one there, a second asked for. -/
theorem witness_CreateBeyondBoundRefused :
    roomFor (some 1) true (ring .transfer [] 0 true).instances 1 = false ∧
    ((ring .transfer [] 0 true).instances.filter fun p => p.1 != 1 && isConsumer p.2).length = 1 ∧
    ((events (fresh none) []).instances.filter fun p => p.1 != 1 && !isConsumer p.2).length = 1 ∧
    exec (.crCreate 1 .command 0) { ring .transfer [] 0 true with params := ⟨8, none, some 1, none⟩ }
      = .refused .tooManyInstances := ⟨by decide, by decide, by decide, rfl⟩

/-- The hypotheses of the statements about a request on a Consumer Ring: CrResetStoresOffset, RefreshRunsToItsResult,
DequeueTrbRunsToItsResult and WorkItemRunsToItsResult (at the last index), NonCurrentCycleReadsEmpty. -/
theorem witness_consumer_requests :
    (ring .transfer [⟨0, 0, 0x400⟩, ⟨0x1000, 0, 0x1802⟩] 1 true).activity = .idle ∧
    (ring .transfer [⟨0, 0, 0x400⟩, ⟨0x1000, 0, 0x1802⟩] 1 true).turns = [] ∧
    findInst (ring .transfer [⟨0, 0, 0x400⟩, ⟨0x1000, 0, 0x1802⟩] 1 true).instances 0
      = some (.consumer ⟨.transfer, 0x1000, [⟨0, 0, 0x400⟩, ⟨0x1000, 0, 0x1802⟩], 1, true⟩) ∧
    1 < [(⟨0, 0, 0x400⟩ : Trb), ⟨0x1000, 0, 0x1802⟩].length ∧
    (∀ trb ∈ [(⟨0, 0, 0x400⟩ : Trb), ⟨0x1000, 0, 0x1802⟩], trb.cycle ≠ true) := by decide

/-- The shortest ring, in memory, to be refreshed twice. -/
def shortest : State :=
  { ring .transfer [] 0 true with mem := writeBytes [] 0x1000 closing.toBytes }

theorem witness_RefreshTwiceSameShadow :
    ∃ s1 t1 s2 t2 : State, shortest.activity = .idle ∧ shortest.turns = [] ∧
      exec (.crUpdateFromGuest 0) shortest = .next s1 ∧ runSteps 1 s1 = .next t1 ∧ delivered t1 (.ok .nothing) ∧
      exec (.crUpdateFromGuest 0) t1 = .next s2 ∧ runSteps 1 s2 = .next t2 ∧ t2.activity = .idle ∧
      (∀ k < 1, ∀ u, runSteps k s1 = .next u → u.activity ≠ .idle) ∧
      (∀ k < 1, ∀ u, runSteps k s2 = .next u → u.activity ≠ .idle) := by
  have run : ∀ s t : State, step s = .next t → runSteps 1 s = .next t := fun s t h => by simp [runSteps, h]
  refine ⟨after (exec (.crUpdateFromGuest 0) shortest), after (step (after (exec (.crUpdateFromGuest 0) shortest))),
    after (exec (.crUpdateFromGuest 0) (after (step (after (exec (.crUpdateFromGuest 0) shortest))))),
    after (step (after (exec (.crUpdateFromGuest 0) (after (step (after (exec (.crUpdateFromGuest 0) shortest))))))),
    by decide, by decide, eq_next_after (by decide), run _ _ (eq_next_after (by decide)), ⟨by decide, by decide⟩,
    eq_next_after (by decide), run _ _ (eq_next_after (by decide)), by decide, ?_, ?_⟩
  · intro k hk u hu
    obtain rfl : k = 0 := by omega
    cases hu; decide
  · intro k hk u hu
    obtain rfl : k = 0 := by omega
    cases hu; decide

theorem witness_RingTooLargeAtTheBound :
    ({ refreshing [normal1] 0x1010 [] with params := ⟨1, none, none, none⟩ } : State).activity
      = .refresh 0 [normal1] 0x1010 ∧
    [normal1].length = ({ refreshing [normal1] 0x1010 [] with params := ⟨1, none, none, none⟩ } : State).params.maxRingTrbs ∧
    ([] : List Trb).length
      = ({ refreshing [] 0x1000 [] with params := ⟨0, none, none, none⟩ } : State).params.maxRingTrbs := by decide

theorem witness_RefreshReadFailureReported :
    (refreshing [normal1] 0x1100 []).activity = .refresh 0 [normal1] 0x1100 ∧
    [normal1].length < (refreshing [normal1] 0x1100 []).params.maxRingTrbs ∧
    readTrb (takeTurn (refreshing [normal1] 0x1100 [])) 0x1100 = none := by decide

theorem witness_RefreshCopiesDataRecord :
    (Instr.normal ⟨1, 0, 0, 0, false, 0, true⟩).trb? = some normal1 ∧ normal1.isLink = false ∧
    (refreshing [] 0xFFFFFFFFFFFFFFF0 []).activity = .refresh 0 [] 0xFFFFFFFFFFFFFFF0 := by decide

/-- Both clauses: a target that is the base (with low bits set), and one that is not. -/
theorem witness_RefreshFollowsLink :
    (refreshing [] 0x1000 []).activity = .refresh 0 [] 0x1000 ∧
    findInst (refreshing [] 0x1000 []).instances 0 = some (.consumer ⟨.transfer, 0x1000, [], 0, true⟩) ∧
    BitVec.ofNat 64 ((0x100F : BitVec 64).toNat / 16 * 16) = 0x1000 ∧
    BitVec.ofNat 64 ((0x0FFF : BitVec 64).toNat / 16 * 16) ≠ 0x1000 := by decide

theorem witness_MissingLinkNeverReported :
    ∃ t, step { State.reset with result := some (.error .eMissingLink) } = .next t ∧
      t.result = some (.error .eMissingLink) := ⟨_, eq_next_after (by decide), by decide⟩

/-- Both alternatives: an empty shadow copy, and an index equal to the length; also the first clauses of
DequeueTrbRunsToItsResult and WorkItemRunsToItsResult. -/
theorem witness_UnusableIndexReadsEmpty :
    (ring .transfer [] 0 true).activity = .idle ∧
    findInst (ring .transfer [] 0 true).instances 0 = some (.consumer ⟨.transfer, 0x1000, [], 0, true⟩) ∧
    ([] : List Trb).length = 0 ∧
    findInst (ring .transfer [closing] 1 true).instances 0 = some (.consumer ⟨.transfer, 0x1000, [closing], 1, true⟩) ∧
    [closing].length ≤ 1 := by decide

/-- WalkReturnsDataRecord, and with the other cycle bit UnavailableSlotStopsWalk. -/
theorem witness_walk_at_a_record :
    (Instr.normal ⟨1, 0, 0, 0, false, 0, true⟩).trb? = some normal1 ∧ normal1.isLink = false ∧
    (walking .transfer [normal1, closing] 0 none).activity = .dequeue 0 0 none ∧
    findInst (walking .transfer [normal1, closing] 0 none).instances 0
      = some (.consumer ⟨.transfer, 0x1000, [normal1, closing], 0, true⟩) ∧
    normal1.cycle = true ∧
    (Instr.normal ⟨1, 0, 0, 0, false, 0, false⟩).trb? = some ⟨1, 0, 0x400⟩ ∧ (⟨1, 0, 0x400⟩ : Trb).cycle ≠ true := by
  decide

/-- Both clauses: the walk that started at 0 comes round after slot 1 of 2, and does not after slot 0. -/
theorem witness_WalkPassesLink :
    ({ walking .transfer [plainLink, closing] 1 none with activity := .dequeue 0 0 none } : State).activity
      = .dequeue 0 0 none ∧
    findInst (walking .transfer [plainLink, closing] 1 none).instances 0
      = some (.consumer ⟨.transfer, 0x1000, [plainLink, closing], 1, true⟩) ∧
    (⟨0x1000, 0, 0, 0, false, 0, true, true⟩ : LinkTrb).cycle = true ∧
    (1 + 1) % [plainLink, closing].length = 0 ∧ (0 + 1) % [plainLink, closing].length ≠ 0 := by decide

/-- The three clauses: `passed` one below the last slot, at it, and a clear chain bit. -/
theorem witness_TransferClassChains :
    (walking .transfer [chained, closing] 0 (some ⟨0, true, [], 0⟩)).activity = .dequeue 0 0 (some ⟨0, true, [], 0⟩) ∧
    findInst (walking .transfer [chained, closing] 0 (some ⟨0, true, [], 0⟩)).instances 0
      = some (.consumer ⟨.transfer, 0x1000, [chained, closing], 0, true⟩) ∧
    (⟨0xA, 16, 0, 0, true, 0, true⟩ : TransferTrb).cycle = true ∧
    (Instr.isoch ⟨0xA, 16, 0, 0, true, 0, true⟩).trb? = some ⟨0xA, 16, 0x1411⟩ ∧
    (⟨0xA, 16, 0, 0, true, 0, true⟩ : TransferTrb).chain = true ∧
    0 + 1 < [chained, closing].length ∧ [chained, closing].length ≤ 1 + 1 ∧
    (⟨0xA, 16, 0, 0, false, 0, true⟩ : TransferTrb).chain = false := by decide

/-- Types 0, 7 and 63, the boundaries of the two ranges, bit 4 set in the second and third. -/
theorem witness_OtherTypesEndWorkItem :
    (Instr.reserved0 ⟨0, 0, 0, 0, true⟩).trb? = some ⟨0, 0, 1⟩ ∧ (⟨0, 0, 1⟩ : Trb).trbType.toNat = 0 ∧
    (Instr.eventData ⟨0, 0, 0, 8, true⟩).trb? = some ⟨0, 0, 0x1C11⟩ ∧ (⟨0, 0, 0x1C11⟩ : Trb).trbType.toNat = 7 ∧
    (Instr.reserved63 ⟨0, 0, 0, 8, true⟩).trb? = some ⟨0, 0, 0xFC11⟩ ∧ 7 ≤ (⟨0, 0, 0xFC11⟩ : Trb).trbType.toNat ∧
    (walking .transfer [⟨0, 0, 0x1C11⟩] 0 (some ⟨0, true, [], 0⟩)).activity = .dequeue 0 0 (some ⟨0, true, [], 0⟩) ∧
    findInst (walking .transfer [⟨0, 0, 0x1C11⟩] 0 (some ⟨0, true, [], 0⟩)).instances 0
      = some (.consumer ⟨.transfer, 0x1000, [⟨0, 0, 0x1C11⟩], 0, true⟩) ∧
    (⟨0, 0, 0x1C11⟩ : Trb).cycle = true := by decide

/-- Both clauses: something gathered, and nothing. -/
theorem witness_IncompleteItemRolledBack :
    (Instr.normal ⟨1, 0, 0, 0, false, 0, false⟩).trb? = some ⟨1, 0, 0x400⟩ ∧
    (walking .transfer [chained, ⟨1, 0, 0x400⟩] 1 (some ⟨0, true, [chained], 1⟩)).activity
      = .dequeue 0 1 (some ⟨0, true, [chained], 1⟩) ∧
    findInst (walking .transfer [chained, ⟨1, 0, 0x400⟩] 1 (some ⟨0, true, [chained], 1⟩)).instances 0
      = some (.consumer ⟨.transfer, 0x1000, [chained, ⟨1, 0, 0x400⟩], 1, true⟩) ∧
    (⟨1, 0, 0x400⟩ : Trb).cycle ≠ true ∧ [chained] ≠ [] ∧
    (walking .transfer [⟨1, 0, 0x400⟩] 0 (some ⟨0, true, [], 0⟩)).activity = .dequeue 0 0 (some ⟨0, true, [], 0⟩) := by
  decide

/-- A ring of three slots with one chained record gathered and the walk at the second slot. -/
def gathering : State := walking .transfer [chained, normal1, closing] 1 (some ⟨0, true, [chained], 1⟩)

theorem gathering_inv : Inv gathering where
  bound := by decide
  memory := by decide
  keys := by decide
  instances := by
    intro p hp
    obtain rfl : p = (0, .consumer ⟨.transfer, 0x1000, [chained, normal1, closing], 1, true⟩) := List.mem_singleton.1 hp
    exact ⟨by decide, by decide, .inr (by decide)⟩
  activity := by
    refine ⟨_, rfl, by decide, by decide, ?_⟩
    rintro g ⟨⟩
    exact ⟨by decide, by decide, by decide, by decide⟩

/-- EveryOperationEnds, its first clause: an idle state that meets the invariant. -/
theorem witness_EveryOperationEnds_idle :
    Inv { gathering with activity := .idle } ∧ ({ gathering with activity := .idle } : State).activity = .idle :=
  ⟨⟨by decide, by decide, by decide, gathering_inv.instances, trivial⟩, rfl⟩

/-- Also of the last clause of ResetStateMeetsInvariant, of StepKeepsInvariant, NoStepFaults, BusyStepDecreasesWork and
EveryOperationEnds (its second clause). -/
theorem witness_TransferDescriptorShape :
    Inv gathering ∧ gathering.activity = .dequeue 0 1 (some ⟨0, true, [chained], 1⟩) ∧ gathering.activity ≠ .idle ∧
    findInst gathering.instances 0 = some (.consumer ⟨.transfer, 0x1000, [chained, normal1, closing], 1, true⟩) ∧
    ∃ t, step gathering = .next t ∧ delivered t (.ok (.item (.transfer [chained, normal1]))) :=
  ⟨gathering_inv, by decide, by decide, by decide, _, eq_next_after (by decide), by decide, by decide⟩

/-- Both lengths of the first part; both clauses of the second. -/
theorem witness_CommandDescriptorArity :
    State.reset.activity = .idle ∧ [normal1] = [normal1] ∧ [normal1, normal1].length ≠ 1 ∧
    ([] : List Trb).length ≠ 1 ∧
    (Instr.noOpCmd ⟨0, 0, 0, 0, true⟩).trb? = some ⟨0, 0, 0x5C01⟩ ∧ (⟨0, 0, 0x5C01⟩ : Trb).isLink = false ∧
    chainOf ⟨0, 0, 0x5C01⟩ = false ∧ (⟨0, 0, 0x5C01⟩ : Trb).cycle = true ∧
    (walking .command [chained, ⟨0, 0, 0x5C01⟩] 1 (some ⟨0, true, [chained], 1⟩)).activity
      = .dequeue 0 1 (some ⟨0, true, [chained], 1⟩) ∧
    findInst (walking .command [chained, ⟨0, 0, 0x5C01⟩] 1 (some ⟨0, true, [chained], 1⟩)).instances 0
      = some (.consumer ⟨.command, 0x1000, [chained, ⟨0, 0, 0x5C01⟩], 1, true⟩) ∧ [chained] ≠ [] := by decide

/-- TransferDescriptorAndSize and the statements about the builders; the bound at one TRB. -/
theorem witness_builders : State.reset.activity = .idle ∧ [normal1].length ≤ 2 ^ 26 := by decide

/-- Without a bound, and with a bound that the count meets exactly. -/
theorem witness_ErCreateRunsToItsResult :
    State.reset.activity = .idle ∧ State.reset.turns = [] ∧
    roomFor State.reset.params.nEvent false State.reset.instances 0 = true ∧ 0 < 1 ∧
    State.reset.params.erstMax = none ∧
    ({ State.reset with params := ⟨16, some 2, none, none⟩ } : State).params.erstMax = some 2 ∧ 2 ≤ 2 := by decide

/-- Also of ErIsFullComparesNextSlot (with `remaining` 16), AcknowledgeStoresAddress and TableCountCheckedFirst. -/
theorem witness_UpdateSegmentTableRunsToItsResult :
    (events (fresh (some 0x410)) []).activity = .idle ∧ (events (fresh (some 0x410)) []).turns = [] ∧
    findInst (events (fresh (some 0x410)) []).instances 0 = some (.event (fresh (some 0x410))) ∧ 0 < 1 ∧
    (events (fresh (some 0x410)) []).params.erstMax = none ∧ roomFor (events (fresh (some 0x410)) []).params.nEvent false (events (fresh (some 0x410)) []).instances 0 = true ∧
    (fresh (some 0x410)).segs ≠ [] ∧ (fresh (some 0x410)).remaining ≠ 1 := by decide

/-- Both clauses: a count of 0, and a count one over the bound. -/
theorem witness_TableCountCheckedFirst :
    State.reset.activity = .idle ∧ roomFor State.reset.params.nEvent false State.reset.instances 0 = true ∧ (0 : Nat) = 0 ∧
    ({ State.reset with params := ⟨16, some 2, none, none⟩ } : State).params.erstMax = some 2 ∧ 2 < 3 := by decide

/-- The last descriptor, with a read that fails and with capacities 15 and 4097 just outside the range, after a good
one of capacity 16. -/
theorem witness_TableStepReadsOrEnds_errors :
    ({ State.reset with activity := .readTable 0 .update 0 2 [⟨0x400, 16⟩] } : State).activity
      = .readTable 0 .update 0 2 [⟨0x400, 16⟩] ∧
    memRead (takeTurn { State.reset with activity := .readTable 0 .update 0 2 [⟨0x400, 16⟩] })
      (0 + BitVec.ofNat 64 (16 * [(⟨0x400, 16⟩ : Segment)].length)) = none ∧
    (∀ low high : Byte, (low, high) ∈ [((15 : Byte), (0 : Byte)), (1, 0x10)] →
      memRead (takeTurn { State.reset with
        activity := .readTable 0 .update 0 2 [⟨0x400, 16⟩]
        mem := writeBytes [] 16 [0, 4, 0, 0, 0, 0, 0, 0, low, high, 0, 0, 0, 0, 0, 0] })
        (0 + BitVec.ofNat 64 (16 * [(⟨0x400, 16⟩ : Segment)].length))
        = some [0, 4, 0, 0, 0, 0, 0, 0, low, high, 0, 0, 0, 0, 0, 0]) ∧
    [(⟨0x400, 16⟩ : Segment)].length + 1 = 2 ∧
    decodeDescriptor [0, 4, 0, 0, 0, 0, 0, 0, 15, 0, 0, 0, 0, 0, 0, 0] = ⟨0x400, 15⟩ ∧
    decodeDescriptor [0, 4, 0, 0, 0, 0, 0, 0, 1, 0x10, 0, 0, 0, 0, 0, 0] = ⟨0x400, 4097⟩ := by
  refine ⟨rfl, rfl, ?_, rfl, by decide, by decide⟩
  intro low high h
  simp only [List.mem_cons, Prod.mk.injEq, List.not_mem_nil, or_false] at h
  rcases h with ⟨rfl, rfl⟩ | ⟨rfl, rfl⟩ <;> decide

/-- A guest write between two reads (a turn that changes the second descriptor) in the middle of a table of three and at
the end of a table of two, with the capacities 16 and 4096 at the bounds; for the update and for the create. -/
theorem witness_TableStepReadsOrEnds_success :
    let mem := writeBytes [] 16 [0, 8, 0, 0, 0, 0, 0, 0, 0, 0, 0, 0, 0, 0, 0, 0]
    let s (purpose : TablePurpose) (n : Nat) : State := { events (fresh none) mem with
      activity := .readTable 0 purpose 0 n [⟨0x400, 16⟩], turns := [⟨[⟨25, some 0x10⟩], false⟩] }
    (∀ purpose ∈ [TablePurpose.update, .create 0x400], ∀ n ∈ [2, 3],
      memRead (takeTurn (s purpose n)) (0 + BitVec.ofNat 64 (16 * [(⟨0x400, 16⟩ : Segment)].length))
        = some [0, 8, 0, 0, 0, 0, 0, 0, 0, 0x10, 0, 0, 0, 0, 0, 0]) ∧
    decodeDescriptor [0, 8, 0, 0, 0, 0, 0, 0, 0, 0x10, 0, 0, 0, 0, 0, 0] = ⟨0x800, 4096⟩ ∧
    [(⟨0x400, 16⟩ : Segment)].length + 1 < 3 ∧ [(⟨0x400, 16⟩ : Segment)].length + 1 = 2 ∧
    findInst (s .update 2).instances 0 = some (.event (fresh none)) := by decide

/-- The clauses of ErIsFullComparesNextSlot with `remaining` 1: in the last segment, and before it; the unknown
pointer. -/
theorem witness_ErIsFullComparesNextSlot :
    (events ⟨[⟨0x400, 16⟩, ⟨0x800, 16⟩], 0, 1, 0x4F0, true, some 0x800⟩ []).activity = .idle ∧
    0 + 1 < [(⟨0x400, 16⟩ : Segment), ⟨0x800, 16⟩].length ∧
    [(⟨0x400, 16⟩ : Segment), ⟨0x800, 16⟩][0 + 1]? = some ⟨0x800, 16⟩ ∧
    [(⟨0x400, 16⟩ : Segment), ⟨0x800, 16⟩].length ≤ 1 + 1 ∧
    [(⟨0x400, 16⟩ : Segment), ⟨0x800, 16⟩][0]? = some ⟨0x400, 16⟩ ∧ (fresh none).dequeuePointer = none := by decide

theorem witness_EnqueueRejectedWhileUnknown :
    (events (fresh none) []).activity = .idle ∧
    findInst (events (fresh none) []).instances 0 = some (.event (fresh none)) ∧
    (fresh none).dequeuePointer = none := by decide

/-- The ring of S4 at its last slot but one, at the end of its first segment, and at the end of its last. -/
theorem witness_EnqueueWritesAndAdvances :
    ∀ r ∈ [(⟨[⟨0x400, 16⟩, ⟨0x800, 16⟩], 1, 2, 0x8E0, true, some 0x420⟩ : EventRing),
      ⟨[⟨0x400, 16⟩, ⟨0x800, 16⟩], 0, 1, 0x8E0, true, some 0x420⟩,
      ⟨[⟨0x400, 16⟩, ⟨0x800, 16⟩], 1, 1, 0x8E0, true, some 0x420⟩],
    (events r (emptySlot 0x8E0)).activity = .idle ∧
    findInst (events r (emptySlot 0x8E0)).instances 0 = some (.event r) ∧ r.segs ≠ [] ∧ 1 ≤ r.remaining ∧
    r.dequeuePointer = some 0x420 ∧ nextSlot r ≠ some 0x420 ∧
    writeOk (events r (emptySlot 0x8E0)) r.enqueuePointer = true := by decide

theorem witness_EnqueueFullWritesNotification :
    (events (fresh (some 0x410)) (emptySlot 0x400)).activity = .idle ∧
    findInst (events (fresh (some 0x410)) (emptySlot 0x400)).instances 0 = some (.event (fresh (some 0x410))) ∧
    (fresh (some 0x410)).segs ≠ [] ∧ (fresh (some 0x410)).dequeuePointer = some 0x410 ∧
    nextSlot (fresh (some 0x410)) = some 0x410 ∧
    writeOk (events (fresh (some 0x410)) (emptySlot 0x400)) (fresh (some 0x410)).enqueuePointer = true := by decide

/-- The full case at the last slot of a segment: before the last segment, and in it. -/
theorem witness_EnqueueFullWritesNotification_segment_ends :
    let r (k : Nat) (at_ next : Addr) : EventRing := ⟨[⟨0x400, 16⟩, ⟨0x800, 16⟩], k, 1, at_, true, some next⟩
    nextSlot (r 0 0x4F0 0x800) = some 0x800 ∧ nextSlot (r 1 0x8F0 0x400) = some 0x400 ∧
    writeOk (events (r 0 0x4F0 0x800) (emptySlot 0x4F0)) 0x4F0 = true ∧
    writeOk (events (r 1 0x8F0 0x400) (emptySlot 0x8F0)) 0x8F0 = true := by decide

theorem witness_EnqueueWriteFailureLeavesRing :
    findInst (events (fresh (some 0x410)) []).instances 0 = some (.event (fresh (some 0x410))) ∧
    (fresh (some 0x410)).segs ≠ [] ∧ (fresh (some 0x410)).dequeuePointer = some 0x410 ∧
    writeOk (events (fresh (some 0x410)) []) (fresh (some 0x410)).enqueuePointer = false := by decide

theorem witness_PositionStaysASlot :
    (∀ g ∈ (fresh (some 0x400)).segs, capValid g = true) ∧
    findInst (events (fresh (some 0x400)) (emptySlot 0x400)).instances 0 = some (.event (fresh (some 0x400))) ∧
    (fresh (some 0x400)).positioned ∧
    ∃ t r', exec (.erEnqueue 0 normal1) (events (fresh (some 0x400)) (emptySlot 0x400)) = .next t ∧
      findInst t.instances 0 = some (.event r') :=
  ⟨by decide, by decide, ⟨⟨0x400, 16⟩, by decide, by decide, by decide, by decide⟩, _,
    ⟨[⟨0x400, 16⟩], 0, 15, 0x410, true, some 0x400⟩, eq_next_after (by decide), by decide⟩

/-- A ring of one segment of 16 slots, all of whose slots the service accepts. -/
def sixteen : State := events (fresh (some 0x400)) ((List.range' 0x400 256).map fun k => (k, 0#8))

theorem witness_CapacityIsTotalMinusOne :
    sixteen.activity = .idle ∧ sixteen.serviceFails = false ∧
    findInst sixteen.instances 0 = some (.event (fresh (some 0x400))) ∧
    (∀ g ∈ (fresh (some 0x400)).segs, capValid g = true) ∧ (ringSlots (fresh (some 0x400)).segs).Nodup ∧
    (fresh (some 0x400)).segs[0]? = some ⟨0x400, 16⟩ ∧ (fresh (some 0x400)).segIndex = 0 ∧
    (fresh (some 0x400)).remaining = 16 ∧ (fresh (some 0x400)).enqueuePointer = 0x400 ∧
    (fresh (some 0x400)).dequeuePointer = some 0x400 ∧
    0 < (List.replicate 15 normal1).length ∧
    (List.replicate 15 normal1).length < (ringSlots (fresh (some 0x400)).segs).length ∧
    (List.replicate 16 normal1).getLast? = some normal1 ∧
    (List.replicate 16 normal1).length = (ringSlots (fresh (some 0x400)).segs).length := by decide

theorem byteAt_listed (n base x : Nat) (h1 : base ≤ x) (h2 : x < base + n) :
    (byteAt ((List.range' base n).map fun k => (k, 0#8)) x).isSome = true := by
  induction n generalizing base with
  | zero => omega
  | succ n ih =>
    simp only [List.range'_succ, List.map_cons, byteAt]
    split
    · rfl
    · exact ih (base + 1) (by omega) (by omega)

theorem accepts_listed (m : Memory) (n : Nat) (a : Addr)
    (h : ∀ k < n, (byteAt m (a + BitVec.ofNat 64 k).toNat).isSome = true) : accepts m a n = true := by
  unfold accepts
  induction n generalizing a with
  | zero => rfl
  | succ n ih =>
    obtain ⟨b, hb⟩ := Option.isSome_iff_exists.1 (by simpa using h 0 (by omega))
    obtain ⟨bs, hbs⟩ := Option.isSome_iff_exists.1 (ih (a + 1#64) fun k hk => by
      have := h (k + 1) (by omega)
      rwa [show a + BitVec.ofNat 64 (k + 1) = a + 1#64 + BitVec.ofNat 64 k by
        rw [BitVec.ofNat_add]; ac_rfl] at this)
    simp [readBytes, hb, hbs]

theorem witness_CapacityIsTotalMinusOne_accepts :
    ∀ a ∈ ringSlots (fresh (some 0x400)).segs, accepts sixteen.mem a 16 = true := by
  intro a ha
  obtain ⟨i, hi, rfl⟩ : ∃ i < 16, 0x400#64 + BitVec.ofNat 64 (16 * i) = a := by
    simpa [ringSlots, segmentSlots, fresh] using ha
  refine accepts_listed _ _ _ fun k hk => byteAt_listed _ _ _ ?_ ?_ <;>
    simp only [BitVec.toNat_add, BitVec.toNat_ofNat] <;> omega

theorem witness_BuiltEventTypeAndCycle :
    ∃ t, exec (.evHostController 21) State.reset = .next t ∧
      t.result = some (.ok (.event ⟨0, 0x15000000, 0x00009400⟩)) :=
  ⟨_, eq_next_after (by decide), by decide⟩

/-- OnlyEnqueueWritesMemory, ParametersFixed and InstancesIndependent (of the instance 1). -/
theorem witness_frames :
    (∃ t, exec (.crReset 0 0x1010) (ring .transfer [] 0 true) = .next t) ∧
    (∃ t, step (ring .transfer [] 0 true) = .next t) ∧
    (∀ id event, Instr.crReset 0 0x1010 ≠ .erEnqueue id event) ∧ (Instr.crReset 0 0x1010).instId ≠ some 1 ∧
    (ring .transfer [] 0 true).activity.instId ≠ some 1 :=
  ⟨⟨_, eq_next_after (by decide)⟩, ⟨_, eq_next_after (by decide)⟩, by simp, by decide, by decide⟩

/-- The clauses about steps: a request taken off the port, and a step of `read_table`, which takes none. -/
theorem witness_frames_of_steps :
    requestTaken { ring .transfer [] 0 true with requests := [encode (.crReset 0 0x1010)] } (.crReset 0 0x1010) ∧
    (∃ t, step { ring .transfer [] 0 true with requests := [encode (.crReset 0 0x1010)] } = .next t) ∧
    (∃ t, step { events (fresh none) (emptySlot 0) with activity := .readTable 0 .update 0 2 [] } = .next t) ∧
    ({ events (fresh none) (emptySlot 0) with activity := .readTable 0 .update 0 2 [] } : State).activity.instId
      ≠ some 1 :=
  ⟨⟨by decide, _, _, rfl, by decide⟩, ⟨_, eq_next_after (by decide)⟩, ⟨_, eq_next_after (by decide)⟩, by decide⟩

/-- The same changes in steps: the closing Link a refresh reads, the toggling Link a walk is at, the event a request
enqueues at the wrap, and the address one acknowledges. -/
theorem witness_changes_in_steps :
    (∃ t, step (refreshing [normal1] 0x1010 (writeBytes [] 0x1010 closing.toBytes)) = .next t ∧
      findInst t.instances 0 = some (.consumer ⟨.transfer, 0x1000, [normal1, closing], 0, true⟩)) ∧
    (∃ t, step (walking .transfer [normal1, closing] 1 none) = .next t ∧
      findInst t.instances 0 = some (.consumer ⟨.transfer, 0x1000, [normal1, closing], 0, false⟩)) ∧
    (∃ t, step { events ⟨[⟨0x400, 16⟩], 0, 1, 0x4F0, true, some 0x420⟩ (emptySlot 0x4F0) with
        requests := [encode (.erEnqueue 0 normal1)] } = .next t ∧
      findInst t.instances 0 = some (.event ⟨[⟨0x400, 16⟩], 0, 16, 0x400, false, some 0x420⟩)) ∧
    (∃ t, step { events (fresh none) [] with requests := [encode (.erUpdateDequeuePointer 0 0x400)] } = .next t ∧
      findInst t.instances 0 = some (.event (fresh (some 0x400)))) :=
  ⟨⟨_, eq_next_after (by decide), by decide⟩, ⟨_, eq_next_after (by decide), by decide⟩,
    ⟨_, eq_next_after (by decide), by decide⟩, ⟨_, eq_next_after (by decide), by decide⟩⟩

theorem witness_ShadowWrittenByRefreshOnly :
    ∃ t, exec (.link ⟨0x1000, 0, 0, 0, false, 0, true, true⟩) (refreshing [normal1] 0x1010 []) = .next t ∧
      (∀ kind base, Instr.link ⟨0x1000, 0, 0, 0, false, 0, true, true⟩ ≠ .crCreate 0 kind base) ∧
      findInst (refreshing [normal1] 0x1010 []).instances 0 = some (.consumer ⟨.transfer, 0x1000, [], 0, true⟩) ∧
      findInst t.instances 0 = some (.consumer ⟨.transfer, 0x1000, [normal1, closing], 0, true⟩) :=
  ⟨_, eq_next_after (by decide), by simp, by decide, by decide⟩

/-- Both ways `ccs` changes: the toggling Link, and the rollback past one (V5 row 3). -/
theorem witness_CcsFlipsOnlyAtTogglingLink :
    (∃ t, exec (.link ⟨0x1000, 0, 0, 0, false, 0, true, true⟩) (walking .transfer [normal1, closing] 1 none) = .next t ∧
      findInst t.instances 0 = some (.consumer ⟨.transfer, 0x1000, [normal1, closing], 0, false⟩)) ∧
    (∃ t, exec (.normal ⟨1, 0, 0, 0, false, 0, true⟩)
        { ring .transfer [normal1, chained, closing] 0 false with
          activity := .dequeue 0 2 (some ⟨1, true, [chained], 2⟩) } = .next t ∧
      findInst t.instances 0 = some (.consumer ⟨.transfer, 0x1000, [normal1, chained, closing], 1, true⟩)) :=
  ⟨⟨_, eq_next_after (by decide), by decide⟩, ⟨_, eq_next_after (by decide), by decide⟩⟩

theorem witness_PcsFlipsOnlyAtWrap :
    ∃ t, exec (.erEnqueue 0 normal1) (events ⟨[⟨0x400, 16⟩], 0, 1, 0x4F0, true, some 0x420⟩ (emptySlot 0x4F0)) = .next t ∧
      findInst t.instances 0 = some (.event ⟨[⟨0x400, 16⟩], 0, 16, 0x400, false, some 0x420⟩) :=
  ⟨_, eq_next_after (by decide), by decide⟩

/-- Both directions: unknown to known, and known to unknown. -/
theorem witness_OnlyAcknowledgeMakesPointerKnown :
    (∃ t, exec (.erUpdateDequeuePointer 0 0x400) (events (fresh none) []) = .next t ∧
      findInst t.instances 0 = some (.event (fresh (some 0x400)))) ∧
    (∃ t, exec (.erEnqueue 0 normal1) (events (fresh (some 0x410)) (emptySlot 0x400)) = .next t ∧
      findInst t.instances 0 = some (.event ⟨[⟨0x400, 16⟩], 0, 15, 0x410, true, none⟩)) :=
  ⟨⟨_, eq_next_after (by decide), by decide⟩, ⟨_, eq_next_after (by decide), by decide⟩⟩

theorem witness_WalkDoesNotSeeGuestStores :
    (walking .transfer [normal1, closing] 0 none).activity = .dequeue 0 0 none ∧
    ∃ t, step (walking .transfer [normal1, closing] 0 none) = .next t := ⟨by decide, _, eq_next_after (by decide)⟩

theorem witness_GuestReachesMemoryOnly :
    State.reset.activity = .idle ∧ State.reset.requests = [] ∧ State.reset.turns = [] := by decide

end Sys2Proof.Tests
end

/-! # Encoding (spec/30_encoding.md R101, R102): what O2 and O5 claim of the record decoder and encoder -/

namespace Sys2Proof
open Machine

/-! ## Little-endian bytes of a word assembled byte by byte (R67, R101) -/

/-- The lowest byte of a concatenation comes first, and the bytes of the rest follow. -/
theorem leBytes_toNat_append {w : Nat} (n : Nat) (x : BitVec w) (b : Byte) :
    leBytes (n + 1) (x ++ b).toNat = b :: leBytes n x.toNat := by
  have hsum : (x ++ b).toNat = x.toNat * 256 + b.toNat := by
    rw [BitVec.toNat_append, ← Nat.shiftLeft_add_eq_or_of_lt b.isLt, Nat.shiftLeft_eq]
  have hb := b.isLt
  have hlow : BitVec.ofNat 8 (x ++ b).toNat = b := BitVec.eq_of_toNat_eq (by simp only [BitVec.toNat_ofNat]; omega)
  rw [leBytes, hlow, show (x ++ b).toNat / 256 = x.toNat by omega]

theorem leBytes_toNat_byte (b : Byte) : leBytes 1 b.toNat = [b] := by simp [leBytes]

/-- A 32-bit word is stored lowest byte first. -/
theorem leBytes_toNat_word32 (b0 b1 b2 b3 : Byte) :
    leBytes 4 (b3 ++ b2 ++ b1 ++ b0 : BitVec 32).toNat = [b0, b1, b2, b3] := by
  iterate 3 rw [leBytes_toNat_append]
  rw [leBytes_toNat_byte]

/-- A 64-bit word is stored lowest byte first. -/
theorem leBytes_toNat_word64 (b0 b1 b2 b3 b4 b5 b6 b7 : Byte) :
    leBytes 8 (b7 ++ b6 ++ b5 ++ b4 ++ b3 ++ b2 ++ b1 ++ b0 : BitVec 64).toNat = [b0, b1, b2, b3, b4, b5, b6, b7] := by
  iterate 7 rw [leBytes_toNat_append]
  rw [leBytes_toNat_byte]

/-! ## Decoder and encoder of a record through its TRB value -/

@[simp] theorem decode_ring_toBytes (t : Trb) : decode .ring t.toBytes = .ok (decodeTrb t) := by simp [decode]

/-- Every record arm of `encode` writes the record `trb?` names; a request stands for no record. -/
theorem encode_of_trb? {i : Instr} {t : Trb} (h : i.trb? = some t) : encode i = t.toBytes := by
  cases i <;> cases h <;> rfl

/-- The decoder gives back the transfer-class instruction its type code selects: `hc` is the arm of that code. -/
theorem decodeTrb_toTrb_transfer {c : BitVec 6} {v : TransferTrb} {mk : TransferTrb → Instr}
    (hc : decodeAs c (v.toTrb c) = mk (.ofTrb (v.toTrb c))) : decodeTrb (v.toTrb c) = mk v := by
  rw [decodeTrb, TransferTrb.trbType_toTrb, hc, TransferTrb.ofTrb_toTrb]

theorem decodeTrb_toTrb_link (v : LinkTrb) : decodeTrb (v.toTrb 6#6) = .link v := by
  rw [decodeTrb, LinkTrb.trbType_toTrb]
  exact congrArg Instr.link (LinkTrb.ofTrb_toTrb _ v)

/-- The decoder gives back the plain instruction its type code selects: `hc` is the arm of that code. -/
theorem decodeTrb_toTrb_plain {c : BitVec 6} {v : PlainTrb} {mk : PlainTrb → Instr}
    (hc : decodeAs c (v.toTrb c) = mk (.ofTrb (v.toTrb c))) : decodeTrb (v.toTrb c) = mk v := by
  rw [decodeTrb, PlainTrb.trbType_toTrb, hc, PlainTrb.ofTrb_toTrb]

/-- The record an instruction stands for decodes to that instruction: each class of records puts its type code where
the decoder reads it, and its view loses no field. -/
theorem decodeTrb_of_trb? {i : Instr} {t : Trb} (h : i.trb? = some t) : decodeTrb t = i := by
  cases i with
  | crCreate | crUpdateFromGuest | crReset | crDequeueTrb | crDequeueWorkItem
  | erCreate | erIsFull | erEnqueue | erUpdateDequeuePointer | erUpdateSegmentTable
  | evTransfer | evCommandCompletion | evPortStatusChange | evHostController | evDeviceNotification | evMfindexWrap
  | cdFromTrbs | tdFromTrbs | tdTransferSize => cases h
  | normal | setupStage | dataStage | statusStage | isoch =>
    obtain rfl := Option.some.inj h
    exact decodeTrb_toTrb_transfer rfl
  | link v =>
    obtain rfl := Option.some.inj h
    exact decodeTrb_toTrb_link v
  | _ =>
    obtain rfl := Option.some.inj h
    exact decodeTrb_toTrb_plain rfl

/-! ## The obligations -/

/-- Settles O2: the bytes are those of the assembled record, so decoding them is decoding an encoded record. -/
theorem recordDecodingTotalAndInverse : Obligations.RecordDecodingTotalAndInverse := by
  intro b0 b1 b2 b3 b4 b5 b6 b7 b8 b9 b10 b11 b12 b13 b14 b15 bytes t
  have hbytes : t.toBytes = bytes := by
    simp only [t, bytes, Trb.toBytes, leBytes_toNat_word64, leBytes_toNat_word32, List.cons_append, List.nil_append]
  have htrb : (decodeTrb t).trb? = some t := trb?_decodeTrb t
  refine ⟨?_, hbytes, decodeTrb t, ?_, htrb, (encode_of_trb? htrb).trans hbytes⟩
  · rw [← hbytes, Trb.ofBytes_toBytes]
  · rw [← hbytes, decode_ring_toBytes]

/-- Settles O5: type and cycle bit are functions of `control` alone, and every view writes both where they are read. -/
theorem tagAndCycleInCommonPlace : Obligations.TagAndCycleInCommonPlace := by
  intro i t h
  refine ⟨decodeTrb_of_trb? h, rfl, rfl, fun t' hcontrol => ⟨?_, ?_⟩, fun c v => ?_, fun c v => ?_, fun c v => ?_⟩
  · rw [Trb.trbType, Trb.trbType, hcontrol]
  · rw [Trb.cycle, Trb.cycle, hcontrol]
  · exact ⟨TransferTrb.cycle_toTrb c v, TransferTrb.trbType_toTrb c v⟩
  · exact ⟨LinkTrb.cycle_toTrb c v, LinkTrb.trbType_toTrb c v⟩
  · exact ⟨PlainTrb.cycle_toTrb c v, PlainTrb.trbType_toTrb c v⟩

end Sys2Proof

/-! # The Event Ring (spec/42_event_ring.md R239): an enqueue while the dequeue pointer is unknown -/

namespace Sys2Proof
open Machine

/-- On an idle engine `er_enqueue` looks at the dequeue pointer first: while it is unknown the operation is over before
the step reaches memory, so the memory service has no say in the outcome. -/
theorem exec_erEnqueue_of_unknown {s : State} {id : InstId} {r : EventRing} (event : Trb) (hidle : s.activity = .idle)
    (hring : findInst s.instances id = some (.event r)) (hunknown : r.dequeuePointer = none) :
    exec (.erEnqueue id event) s
      = .next (s.with3 s.instances .idle (some (.error (.eventRingFull event false)))) := by
  calc exec (.erEnqueue id event) s
    _ = execErEnqueue id event s := rfl
    _ = raise s (.eventRingFull event false) := by
      rw [execErEnqueue, whenIdle_of_idle hidle, onEvent_of_find hring, hunknown]
    _ = _ := raise_with3 s _

/-- Settles O36: the rejection changes the activity and the result alone, and those hold the answer. -/
theorem enqueueRejectedWhileUnknown : Obligations.EnqueueRejectedWhileUnknown := by
  intro s id event r hidle hring hunknown
  refine ⟨_, exec_erEnqueue_of_unknown event hidle hring hunknown, ?_, ?_, ?_, ?_⟩
  · exact ⟨with3_activity .., with3_result ..⟩
  · exact with3_instances ..
  · exact with3_sameEnvironment ..
  · exact with3_memoryKept ..

end Sys2Proof

/-! # Error codes (spec/60_exceptions.md R304): `E_MISSING_LINK` exists and no execution produces it -/

namespace Sys2Proof
open Machine

theorem operationEffect_result_ne_missingLink {s t : State} {i : Instr} (h : OperationEffect s i t) :
    t.result ≠ some (.error .eMissingLink) := by
  cases h with
  | answer i r hr => simpa using hr
  | _ => simp

theorem tableEffect_result_ne_missingLink {s t : State} {id : InstId} {purpose : TablePurpose} {erstba : Addr}
    {erstsz : Nat} {raw : List Segment} (h : TableEffect s id purpose erstba erstsz raw t) :
    t.result ≠ some (.error .eMissingLink) := by
  cases h with
  | fails e he => simpa using he
  | _ => simp

theorem atRecord_result_ne_missingLink {s t : State} {trb : Trb} (h : atRecord trb s = .next t) :
    t.result ≠ some (.error .eMissingLink) := by
  obtain ⟨m, a, r, rfl, hr, -⟩ := atRecord_next h
  exact hr

/-- A walk that finds nothing answers `None`, `NoWork` or `E_INCOMPLETE` (R188, R194, R195). -/
theorem walkEmpty_result_ne_missingLink {s t : State} {id : InstId} {c : ConsumerRing} {gather : Option Gather}
    (h : walkEmpty s id c gather = .next t) : t.result ≠ some (.error .eMissingLink) := by
  cases gather with
  | none => rw [walkEmpty_none] at h; cases h; simp
  | some g =>
    by_cases hg : g.item = []
    · rw [walkEmpty_noWork _ _ _ hg] at h; cases h; simp
    · rw [walkEmpty_incomplete _ _ _ hg] at h; cases h; simp

/-- After the environment's turn, the one way to have the result `E_MISSING_LINK` is a port at rest that keeps it:
every other kind of step sets the result anew (to none while the operation goes on), and never to this one. -/
theorem stepEffect_missingLink_kept {s t : State} (h : StepEffect s t)
    (ht : t.result = some (.error .eMissingLink)) : s.result = some (.error .eMissingLink) := by
  cases h with
  | rest => exact ht
  | request bs rest i t hs hr hd hi hx hop => exact absurd ht (operationEffect_result_ne_missingLink hop)
  | record trb t hf hrec => exact absurd ht (atRecord_result_ne_missingLink hrec)
  | refreshFails id g a e hs he => exact absurd ht (by simpa using he)
  | table id purpose erstba erstsz raw t hs htab => exact absurd ht (tableEffect_result_ne_missingLink htab)
  | lost id st g c t hs hc hl hwalk => exact absurd ht (walkEmpty_result_ne_missingLink hwalk)

/-- Settles O17: by the cases of what a step can do, only a step at rest can end with the code, and the environment's
turn leaves the result alone. -/
theorem missingLinkNeverReported : Obligations.MissingLinkNeverReported := by
  intro s t hstep ht
  calc s.result
    _ = (takeTurn s).result := (takeTurn_result s).symm
    _ = some (.error .eMissingLink) := stepEffect_missingLink_kept (step_next hstep) ht

end Sys2Proof

/-! # Encoding (spec/30_encoding.md R101, R108, R117): what O1, O3 and O4 claim of the encoder and both decoders -/

namespace Sys2Proof
open Machine

/-! ## Requests: the parser reads back what the encoder put and leaves the rest (log entry 4) -/

/-- Each arm reads its operands back one after another, in the order the encoder put them. -/
theorem parseRequest_encode {i : Instr} (hreq : i.trb? = none) (hwf : i.wf = true) (rest : List Byte) :
    parseRequest (encode i ++ rest) = .ok (i, rest) := by
  cases i with
  | crCreate | crUpdateFromGuest | crReset | crDequeueTrb | crDequeueWorkItem
  | erIsFull | erEnqueue | erUpdateDequeuePointer =>
    have hid := of_decide_eq_true hwf
    simp [encode, parseRequest, takeNat_putNat hid, takeWord_putNat, takeKind_putKind, takeTrb_toBytes]
  | erCreate | erUpdateSegmentTable =>
    obtain ⟨hid, hcount⟩ := Bool.and_eq_true_iff.1 hwf
    simp [encode, parseRequest, takeNat_putNat (of_decide_eq_true hid), takeNat_putNat (of_decide_eq_true hcount),
      takeWord_putNat]
  | cdFromTrbs | tdFromTrbs | tdTransferSize =>
    have hlen := of_decide_eq_true hwf
    simp [encode, parseRequest, takeTrbList_putTrbList hlen]
  | evTransfer | evCommandCompletion | evPortStatusChange | evHostController | evDeviceNotification | evMfindexWrap =>
    simp [encode, parseRequest, takeWord_putNat]
  | _ => cases hreq

/-- Settles O1: a record decodes by its type code, a request by its operation code and operands. -/
theorem encodedInstructionDecodesBack : Obligations.EncodedInstructionDecodesBack := by
  intro i hwf
  cases htrb : i.trb? with
  | some t => rw [Instr.source, htrb, encode_of_trb? htrb, decode_ring_toBytes, decodeTrb_of_trb? htrb]
  | none =>
    have hparse := parseRequest_encode htrb hwf []
    rw [List.append_nil] at hparse
    rw [Instr.source, htrb, decode, decodeRequest, hparse]

/-! ## Byte `k` of a little-endian word (spec/20_memory.md R67) -/

theorem getElem?_leBytes {n k : Nat} (hk : k < n) (v : Nat) :
    (leBytes n v)[k]? = some (BitVec.ofNat 8 (v / 256 ^ k)) := by
  induction n generalizing k v with
  | zero => omega
  | succ n ih =>
    cases k with
    | zero => simp [leBytes]
    | succ k =>
      rw [leBytes, List.getElem?_cons_succ, ih (Nat.lt_of_succ_lt_succ hk), Nat.div_div_eq_div_mul, pow_succ']

/-- Byte `k` of a word's little-endian bytes is bits `8 * k + 7` to `8 * k` of the word. -/
theorem getElem?_leBytes_toNat {w n k : Nat} (hk : k < n) (x : BitVec w) :
    (leBytes n x.toNat)[k]? = some (x.extractLsb' (8 * k) 8) := by
  rw [getElem?_leBytes hk]
  congr 1
  apply BitVec.eq_of_toNat_eq
  rw [BitVec.toNat_ofNat, BitVec.extractLsb'_toNat, Nat.shiftRight_eq_div_pow, Nat.pow_mul 2 8 k]

theorem Trb.toBytes_parameter (t : Trb) {k : Nat} (hk : k < 8) :
    t.toBytes[k]? = some (t.parameter.extractLsb' (8 * k) 8) := by
  rw [Trb.toBytes, List.append_assoc, List.getElem?_append_left (by simpa using hk), getElem?_leBytes_toNat hk]

theorem Trb.toBytes_status (t : Trb) {k : Nat} (hk : k < 4) :
    t.toBytes[8 + k]? = some (t.status.extractLsb' (8 * k) 8) := by
  rw [Trb.toBytes, List.append_assoc, List.getElem?_append_right (by simp), length_leBytes, Nat.add_sub_cancel_left,
    List.getElem?_append_left (by simpa using hk), getElem?_leBytes_toNat hk]

theorem Trb.toBytes_control (t : Trb) {k : Nat} (hk : k < 4) :
    t.toBytes[12 + k]? = some (t.control.extractLsb' (8 * k) 8) := by
  rw [Trb.toBytes, List.getElem?_append_right (by simp), List.length_append, length_leBytes, length_leBytes,
    Nat.add_sub_cancel_left, getElem?_leBytes_toNat hk]

/-- Settles O3: each byte is a byte of its field, and a write stores the bytes in order. -/
theorem recordIsLittleEndian : Obligations.RecordIsLittleEndian := by
  intro t
  refine ⟨fun k hk => t.toBytes_parameter hk, fun k hk => t.toBytes_status hk, fun k hk => t.toBytes_control hk,
    ?_, ?_, t.length_toBytes, fun s a k hk => ?_, fun s a hread => ?_⟩
  · rw [t.toBytes_control (k := 0) (by decide)]
    simp [Trb.cycle]
  · rw [t.toBytes_control (k := 1) (by decide), Option.map_some, Trb.trbType]
    congr 1
    ext j hj
    simp [show 2 + j < 8 by omega, ← Nat.add_assoc]
  · rw [afterWrite_mem, byteAt_writeBytes_inside _ _ _ (by simp) k (by simpa using hk), List.getElem?_eq_getElem]
  · rw [readTrb, hread, Option.map_some, Trb.ofBytes_toBytes]

/-- Settles O4: the decoders computed on the written-out bytes. -/
theorem writtenOutWordsDecode : Obligations.WrittenOutWordsDecode := by
  unfold Obligations.WrittenOutWordsDecode
  decide

end Sys2Proof

/-! # Requests answered in one step (spec/41_consumer_ring.md sections 1, 3, 6, spec/42_event_ring.md sections 1, 3, 5,
spec/43_event_builders.md, spec/60_exceptions.md R306, R320) -/

namespace Sys2Proof
open Machine

/-! ## What an answer leaves, and what a stored ring leaves -/

theorem delivered_with3 (s : State) (m : Instances) (r : OpResult) :
    delivered (s.with3 m .idle (some r)) r := ⟨rfl, rfl⟩

theorem underway_with3 (s : State) (m : Instances) (a : Activity) : underway (s.with3 m a none) a := ⟨rfl, rfl⟩

/-- A step that writes no ring: nothing but the activity and the result differs. -/
theorem with3_frame (s : State) (a : Activity) (r : Option OpResult) :
    (s.with3 s.instances a r).instances = s.instances ∧ sameEnvironment s (s.with3 s.instances a r) ∧
      memoryKept s (s.with3 s.instances a r) :=
  ⟨rfl, with3_sameEnvironment .., with3_memoryKept ..⟩

theorem othersKept_with3_putInst (s : State) (id : InstId) (q : RingInstance) (a : Activity) (r : Option OpResult) :
    othersKept id s (s.with3 (putInst s.instances id q) a r) := fun _ h => findInst_putInst_of_ne _ _ h

/-- A step that stores the ring `q` under `id`: that ring is there, and every other is as before. -/
theorem with3_putInst_frame (s : State) (id : InstId) (q : RingInstance) (a : Activity) (r : Option OpResult) :
    findInst (s.with3 (putInst s.instances id q) a r).instances id = some q ∧
      othersKept id s (s.with3 (putInst s.instances id q) a r) ∧
      sameEnvironment s (s.with3 (putInst s.instances id q) a r) ∧
      memoryKept s (s.with3 (putInst s.instances id q) a r) :=
  ⟨findInst_putInst_self .., othersKept_with3_putInst s id q a r, with3_sameEnvironment .., with3_memoryKept ..⟩

/-! ## Creation and reset of a Consumer Ring (R181, R186) -/

theorem exec_crCreate {s : State} {id : InstId} (kind : RingKind) (base : Addr) (hidle : s.activity = .idle)
    (hroom : roomFor s.params.nConsumer true s.instances id = true) :
    exec (.crCreate id kind base) s
      = .next (s.with3 (putInst s.instances id (.consumer (newConsumer kind base))) .idle (some (.ok .nothing))) := by
  simp [exec, execCrCreate, whenIdle_of_idle hidle, hroom, finish_putConsumer]

theorem exec_crReset {s : State} {id : InstId} {c : ConsumerRing} (pointer : Addr) (hidle : s.activity = .idle)
    (hring : findInst s.instances id = some (.consumer c)) :
    exec (.crReset id pointer) s
      = .next (s.with3 (putInst s.instances id (.consumer { c with dequeueIndex := resetIndex c.base pointer })) .idle
          (some (.ok .nothing))) := by
  simp [exec, execCrReset, whenIdle_of_idle hidle, onConsumer_of_find hring, finish_putConsumer]

/-- Settles O8: the one thing `cr_create` stores is the new ring. -/
theorem crCreateMakesEmptyRing : Obligations.CrCreateMakesEmptyRing := by
  intro s id kind base hidle hroom
  exact ⟨_, exec_crCreate kind base hidle hroom, delivered_with3 .., with3_putInst_frame ..⟩

/-- A bound that the other rings of the kind reach already leaves no room. -/
theorem roomFor_eq_false {n : Nat} {consumer : Bool} {m : Instances} {id : InstId}
    (h : n ≤ (m.filter fun p => p.1 != id && isConsumer p.2 == consumer).length) :
    roomFor (some n) consumer m id = false := by
  simpa [roomFor] using h

/-- Settles O9: both creates test the room before anything else. -/
theorem createBeyondBoundRefused : Obligations.CreateBeyondBoundRefused := by
  intro s id kind base erstba erdp erstsz n hidle
  refine ⟨fun hbound hcount => ?_, fun hbound hcount => ?_⟩
  · have hfull : roomFor s.params.nConsumer true s.instances id = false := by
      rw [hbound]; exact roomFor_eq_false (by simpa using hcount)
    simp [exec, execCrCreate, whenIdle_of_idle hidle, hfull]
  · have hfull : roomFor s.params.nEvent false s.instances id = false := by
      rw [hbound]; exact roomFor_eq_false (by simpa using hcount)
    simp [exec, execErCreate, whenIdle_of_idle hidle, hfull]

/-- The reset index written in natural numbers (R111, D11). -/
theorem resetIndex_eq (base pointer : Addr) :
    resetIndex base pointer = (pointer.toNat + (2 ^ 64 - base.toNat)) % 2 ^ 64 / 16 := by
  rw [resetIndex, BitVec.toNat_sub, Nat.add_comm]

/-- Settles O10: the one thing `cr_reset` stores is the ring with the offset as its index. -/
theorem crResetStoresOffset : Obligations.CrResetStoresOffset := by
  intro s id pointer c hidle hring
  rw [← resetIndex_eq]
  exact ⟨_, exec_crReset pointer hidle hring, delivered_with3 .., with3_putInst_frame ..⟩

/-! ## A dequeue with an unusable index (R188, D9) -/

theorem exec_crDequeueTrb_unusable {s : State} {id : InstId} {c : ConsumerRing} (hidle : s.activity = .idle)
    (hring : findInst s.instances id = some (.consumer c)) (hindex : ¬ c.dequeueIndex < c.shadow.length) :
    exec (.crDequeueTrb id) s = .next (s.with3 s.instances .idle (some (.ok (.trb none)))) := by
  simp [exec, execCrDequeueTrb, whenIdle_of_idle hidle, onConsumer_of_find hring, hindex, walkEmpty_none]

theorem exec_crDequeueWorkItem_unusable {s : State} {id : InstId} {c : ConsumerRing} (hidle : s.activity = .idle)
    (hring : findInst s.instances id = some (.consumer c)) (hindex : ¬ c.dequeueIndex < c.shadow.length) :
    exec (.crDequeueWorkItem id) s = .next (s.with3 s.instances .idle (some (.ok .noWork))) := by
  simp [exec, execCrDequeueWorkItem, whenIdle_of_idle hidle, onConsumer_of_find hring, hindex,
    walkEmpty_noWork s id c (g := startGather c) rfl]

/-- An empty shadow copy is a case of an index out of range. -/
theorem not_index_lt_of_unusable {c : ConsumerRing} (h : c.shadow.length = 0 ∨ c.shadow.length ≤ c.dequeueIndex) :
    ¬ c.dequeueIndex < c.shadow.length := by omega

/-- Settles O18: both operations answer in the step that takes the request. -/
theorem unusableIndexReadsEmpty : Obligations.UnusableIndexReadsEmpty := by
  intro s id c hidle hring hunusable
  have hindex := not_index_lt_of_unusable hunusable
  exact ⟨⟨_, exec_crDequeueTrb_unusable hidle hring hindex, delivered_with3 .., with3_frame ..⟩,
    ⟨_, exec_crDequeueWorkItem_unusable hidle hring hindex, delivered_with3 .., with3_frame ..⟩⟩

/-! ## The descriptor constructors and the transfer size (R198, R199, R200) -/

theorem exec_tdFromTrbs {s : State} (trbs : List Trb) (hidle : s.activity = .idle) :
    exec (.tdFromTrbs trbs) s = .next (s.with3 s.instances .idle (some (.ok (.descriptor (.transfer trbs))))) := by
  simp [exec, execTdFromTrbs, whenIdle_of_idle hidle, finish_with3, transferDescriptor]

theorem exec_tdTransferSize {s : State} (trbs : List Trb) (hidle : s.activity = .idle) :
    exec (.tdTransferSize trbs) s = .next (s.with3 s.instances .idle (some (.ok (.size (transferSize trbs))))) := by
  simp [exec, execTdTransferSize, whenIdle_of_idle hidle, finish_with3]

/-- The transfer length of a record is the low 17 bits of its status. -/
theorem xferLen_eq (t : Trb) : xferLen t = t.status.toNat % 2 ^ 17 := by
  rw [xferLen, BitVec.extractLsb'_toNat, Nat.shiftRight_zero]

theorem transferSize_eq_sum (trbs : List Trb) :
    transferSize trbs = (trbs.map fun trb => trb.status.toNat % 2 ^ 17).sum := by
  induction trbs with
  | nil => rfl
  | cons t ts ih => rw [transferSize, xferLen_eq, ih, List.map_cons, List.sum_cons]

theorem transferSize_le (trbs : List Trb) : transferSize trbs ≤ trbs.length * (2 ^ 17 - 1) := by
  induction trbs with
  | nil => simp [transferSize]
  | cons t ts ih =>
    have hlen : xferLen t ≤ 2 ^ 17 - 1 := by rw [xferLen_eq]; omega
    rw [transferSize, List.length_cons, Nat.succ_mul]
    omega

/-- Settles O30: at most `2 ^ 26` lengths of at most `2 ^ 17 - 1` each stay below `2 ^ 43`. -/
theorem transferDescriptorAndSize : Obligations.TransferDescriptorAndSize := by
  intro s trbs hidle
  rw [← transferSize_eq_sum]
  refine ⟨⟨_, exec_tdFromTrbs trbs hidle, delivered_with3 .., with3_frame ..⟩,
    ⟨_, exec_tdTransferSize trbs hidle, delivered_with3 .., with3_frame ..⟩, fun hcount => ?_⟩
  have := transferSize_le trbs
  omega

/-- What `cd_from_trbs` answers. -/
def commandDescriptorResult (trbs : List Trb) : OpResult :=
  match commandDescriptor trbs with
  | .ok d => .ok (.descriptor d)
  | .error e => .error e

theorem exec_cdFromTrbs {s : State} (trbs : List Trb) (hidle : s.activity = .idle) :
    exec (.cdFromTrbs trbs) s = .next (s.with3 s.instances .idle (some (commandDescriptorResult trbs))) := by
  simp only [exec, execCdFromTrbs, whenIdle_of_idle hidle, commandDescriptorResult]
  cases commandDescriptor trbs with
  | ok d => exact finish_with3 ..
  | error e => exact raise_with3 ..

theorem commandDescriptor_of_length_ne_one {trbs : List Trb} (h : trbs.length ≠ 1) :
    commandDescriptor trbs = .error (.eSizeMismatch trbs.length) := by
  match trbs with
  | [] => rfl
  | [_] => exact absurd rfl h
  | _ :: _ :: _ => rfl

/-! ## The table count, before any memory access (R306, D17) -/

theorem startTable_empty (s : State) (id : InstId) (purpose : TablePurpose) (erstba : Addr) :
    startTable s id purpose erstba 0 = .next (s.with3 s.instances .idle (some (.error .eEmptySegmentTable))) := by
  simp [startTable, raise_with3]

theorem startTable_tooLarge {s : State} (id : InstId) (purpose : TablePurpose) (erstba : Addr) {erstsz m : Nat}
    (hmax : s.params.erstMax = some m) (hlarge : m < erstsz) :
    startTable s id purpose erstba erstsz
      = .next (s.with3 s.instances .idle (some (.error .eSegmentTableTooLarge))) := by
  simp [startTable, hmax, hlarge, show erstsz ≠ 0 by omega, raise_with3]

theorem startTable_begins {s : State} (id : InstId) (purpose : TablePurpose) (erstba : Addr) {erstsz : Nat}
    (hpos : 0 < erstsz) (hmax : ∀ m, s.params.erstMax = some m → erstsz ≤ m) :
    startTable s id purpose erstba erstsz
      = .next (s.with3 s.instances (.readTable id purpose erstba erstsz []) none) := by
  rw [startTable, if_neg (by omega)]
  cases h : s.params.erstMax with
  | none => exact continueWith_with3 ..
  | some m => simp [Nat.not_lt.2 (hmax m h), continueWith_with3]

theorem exec_erCreate {s : State} {id : InstId} (erstba : Addr) (erstsz : Nat) (erdp : Addr)
    (hidle : s.activity = .idle)
    (hroom : roomFor s.params.nEvent false s.instances id = true) :
    exec (.erCreate id erstba erstsz erdp) s = startTable s id (.create erdp) erstba erstsz := by
  simp [exec, execErCreate, whenIdle_of_idle hidle, hroom]

theorem exec_erUpdateSegmentTable {s : State} {id : InstId} {r : EventRing} (erstba : Addr) (erstsz : Nat)
    (hidle : s.activity = .idle) (hring : findInst s.instances id = some (.event r)) :
    exec (.erUpdateSegmentTable id erstba erstsz) s = startTable s id .update erstba erstsz := by
  simp [exec, execErUpdateSegmentTable, whenIdle_of_idle hidle, onEvent_of_find hring]

/-- Settles O33: both table operations come to `startTable`, whose two checks read nothing. -/
theorem tableCountCheckedFirst : Obligations.TableCountCheckedFirst := by
  intro s id erstba erdp erstsz hidle i hi
  have hstart : ∃ purpose, exec i s = startTable s id purpose erstba erstsz := by
    obtain ⟨rfl, hroom⟩ | ⟨rfl, r, hring⟩ := hi
    · exact ⟨_, exec_erCreate erstba erstsz erdp hidle hroom⟩
    · exact ⟨_, exec_erUpdateSegmentTable erstba erstsz hidle hring⟩
  obtain ⟨purpose, hexec⟩ := hstart
  rw [hexec]
  refine ⟨?_, fun m hmax hlarge => ?_⟩
  · rintro rfl
    exact ⟨_, startTable_empty .., delivered_with3 .., with3_frame ..⟩
  · exact ⟨_, startTable_tooLarge id purpose erstba hmax hlarge, delivered_with3 .., with3_frame ..⟩

/-! ## `er_is_full` and the acknowledgement (R233 to R235, R243) -/

/-- What `er_is_full` answers: whether the next slot is the known dequeue pointer (R233, R234). -/
def fullAnswer (r : EventRing) : Bool :=
  match r.dequeuePointer with
  | none => true
  | some d => nextSlot r == some d

theorem exec_erIsFull {s : State} {id : InstId} {r : EventRing} (hidle : s.activity = .idle)
    (hring : findInst s.instances id = some (.event r)) (hsegs : r.segs ≠ []) :
    exec (.erIsFull id) s = .next (s.with3 s.instances .idle (some (.ok (.full (fullAnswer r))))) := by
  obtain ⟨a, ha⟩ := nextSlot_isSome hsegs
  simp only [exec, execErIsFull, whenIdle_of_idle hidle, onEvent_of_find hring, fullAnswer, ha]
  cases r.dequeuePointer with
  | none => exact finish_with3 ..
  | some d => exact finish_with3 ..

theorem fullAnswer_eq_true_iff {r : EventRing} {d : Addr} (hd : r.dequeuePointer = some d) :
    fullAnswer r = true ↔ nextSlot r = some d := by
  simp [fullAnswer, hd]

/-- Inside a segment the next slot is 16 further (R235). -/
theorem nextSlot_inside {r : EventRing} (h : r.remaining ≠ 1) : nextSlot r = some (r.enqueuePointer + 16#64) := by
  rw [nextSlot, if_neg h, nextSlotAddr]

theorem nextIndex_inside {r : EventRing} (h : r.segIndex + 1 < r.segs.length) : nextIndex r = r.segIndex + 1 :=
  if_neg (Nat.not_le.2 h)

theorem nextIndex_wraps {r : EventRing} (h : r.segs.length ≤ r.segIndex + 1) : nextIndex r = 0 := if_pos h

/-- At the last slot of a segment the next slot is the start of the segment that comes next (R235). -/
theorem nextSlot_last {r : EventRing} {g : Segment} (h : r.remaining = 1) (hg : r.segs[nextIndex r]? = some g) :
    nextSlot r = some g.base := by
  rw [nextSlot, if_pos h, hg, Option.map_some]

/-- Settles O35: the answer compares the next slot, whose three cases are those of R235. -/
theorem erIsFullComparesNextSlot : Obligations.ErIsFullComparesNextSlot := by
  intro s id r hidle hring hsegs
  obtain ⟨hinst, henv, hmem⟩ := with3_frame s .idle (some (.ok (.full (fullAnswer r))))
  refine ⟨_, _, exec_erIsFull hidle hring hsegs, delivered_with3 .., hinst, henv, hmem, fun hd => ?_,
    fun d hd hrem => ?_, fun d g hd hrem hnext hg => ?_, fun d g hd hrem hwrap hg => ?_⟩
  · rw [fullAnswer, hd]
  · rw [fullAnswer_eq_true_iff hd, nextSlot_inside hrem, Option.some.injEq]
  · rw [fullAnswer_eq_true_iff hd, nextSlot_last hrem (by rwa [nextIndex_inside hnext]), Option.some.injEq]
  · rw [fullAnswer_eq_true_iff hd, nextSlot_last hrem (by rwa [nextIndex_wraps hwrap]), Option.some.injEq]

theorem exec_erUpdateDequeuePointer {s : State} {id : InstId} {r : EventRing} (addr : Addr)
    (hidle : s.activity = .idle)
    (hring : findInst s.instances id = some (.event r)) :
    exec (.erUpdateDequeuePointer id addr) s
      = .next (s.with3 (putInst s.instances id (.event { r with dequeuePointer := some addr })) .idle
          (some (.ok .nothing))) := by
  simp only [exec, execErUpdateDequeuePointer, whenIdle_of_idle hidle, onEvent_of_find hring]
  rfl

/-- Settles O40: the one thing stored is the ring with the given address. -/
theorem acknowledgeStoresAddress : Obligations.AcknowledgeStoresAddress := by
  intro s id addr r hidle hring
  exact ⟨_, exec_erUpdateDequeuePointer addr hidle hring, delivered_with3 .., with3_putInst_frame ..⟩

/-! ## The event records as numbers (R106, R280 to R286) -/

theorem toNat_append_eq_add {m n : Nat} (x : BitVec m) (y : BitVec n) :
    (x ++ y).toNat = x.toNat * 2 ^ n + y.toNat := by
  rw [BitVec.toNat_append, ← Nat.shiftLeft_add_eq_or_of_lt y.isLt, Nat.shiftLeft_eq]

theorem eventStatus_toNat (cc : BitVec 8) (length : BitVec 24) :
    (eventStatus cc length).toNat = cc.toNat * 2 ^ 24 + length.toNat := toNat_append_eq_add cc length

theorem eventControl_toNat (top second : BitVec 8) (type : BitVec 6) :
    (eventControl top second type).toNat = top.toNat * 2 ^ 24 + second.toNat * 2 ^ 16 + type.toNat * 2 ^ 10 := by
  rw [eventControl, toNat_append_eq_add, toNat_append_eq_add, toNat_append_eq_add, BitVec.toNat_ofNat]
  omega

/-- A record with the control word of an event has cycle bit 0. -/
theorem cycle_eventControl (p : BitVec 64) (status : BitVec 32) (top second : BitVec 8) (type : BitVec 6) :
    (Trb.mk p status (eventControl top second type)).cycle = false := by
  simp only [Trb.cycle, eventControl, BitVec.getLsbD_append]
  rfl

/-- A record with the control word of an event has the type the word was built with. -/
theorem trbType_eventControl (p : BitVec 64) (status : BitVec 32) (top second : BitVec 8) (type : BitVec 6) :
    (Trb.mk p status (eventControl top second type)).trbType = type := by
  apply BitVec.eq_of_toNat_eq
  rw [Trb.trbType, BitVec.extractLsb'_toNat, eventControl_toNat, Nat.shiftRight_eq_div_pow]
  have := type.isLt
  omega

/-! ## The builders (R280) -/

theorem build_eq_next {s t : State} {e : Trb} :
    build s e = .next t ↔ s.activity = .idle ∧ t = s.with3 s.instances .idle (some (.ok (.event e))) := by
  rw [build, whenIdle_eq_next, finish_eq_next]
  rfl

theorem build_of_idle {s : State} (e : Trb) (hidle : s.activity = .idle) :
    build s e = .next (s.with3 s.instances .idle (some (.ok (.event e)))) := build_eq_next.2 ⟨hidle, rfl⟩

/-- Settles O43: the fields of `transferEvent`, read as numbers. -/
theorem transferEventLayout : Obligations.TransferEventLayout := by
  intro s trbPointer length slot endpoint cc hidle
  obtain ⟨hinst, henv, hmem⟩ :=
    with3_frame s .idle (some (.ok (.event (transferEvent trbPointer length slot endpoint cc))))
  refine ⟨_, _, build_of_idle _ hidle, delivered_with3 .., hinst, henv, hmem, rfl, ?_, ?_⟩
  · simp only [transferEvent, eventStatus_toNat, BitVec.toNat_setWidth]
  · simp only [transferEvent, eventControl_toNat, toNat_append_eq_add, BitVec.toNat_setWidth, BitVec.toNat_ofNat]
    omega

/-- Settles O44: the fields of the three records, read as numbers. -/
theorem commandPortHostEventLayout : Obligations.CommandPortHostEventLayout := by
  intro s cc slot address port hidle
  have frame := fun e => with3_frame s .idle (some (.ok (.event e)))
  refine ⟨?_, ?_, ?_⟩
  · obtain ⟨hinst, henv, hmem⟩ := frame (commandCompletionEvent cc slot address)
    refine ⟨_, _, build_of_idle _ hidle, delivered_with3 .., hinst, henv, hmem, rfl, ?_, ?_⟩
    · simp [commandCompletionEvent, eventStatus_toNat]
    · simp [commandCompletionEvent, eventControl_toNat]
  · obtain ⟨hinst, henv, hmem⟩ := frame (portStatusChangeEvent port)
    refine ⟨_, _, build_of_idle _ hidle, delivered_with3 .., hinst, henv, hmem, ?_, ?_, ?_⟩
    · simp only [portStatusChangeEvent, toNat_append_eq_add, BitVec.toNat_setWidth, BitVec.toNat_ofNat]
      omega
    · simp [portStatusChangeEvent, eventStatus_toNat]
    · simp [portStatusChangeEvent, eventControl_toNat]
  · obtain ⟨hinst, henv, hmem⟩ := frame (hostControllerEvent cc)
    refine ⟨_, _, build_of_idle _ hidle, delivered_with3 .., hinst, henv, hmem, rfl, ?_, ?_⟩
    · simp [hostControllerEvent, eventStatus_toNat]
    · simp [hostControllerEvent, eventControl_toNat]

/-- Settles O45: the fields of the two records, read as numbers. -/
theorem notificationWrapEventLayout : Obligations.NotificationWrapEventLayout := by
  intro s slot ntype data hidle
  have frame := fun e => with3_frame s .idle (some (.ok (.event e)))
  refine ⟨?_, ?_⟩
  · obtain ⟨hinst, henv, hmem⟩ := frame (deviceNotificationEvent slot ntype data)
    refine ⟨_, _, build_of_idle _ hidle, delivered_with3 .., hinst, henv, hmem, ?_, ?_, ?_⟩
    · simp only [deviceNotificationEvent, toNat_append_eq_add, BitVec.toNat_setWidth, BitVec.toNat_ofNat]
      omega
    · simp [deviceNotificationEvent, eventStatus_toNat]
    · simp [deviceNotificationEvent, eventControl_toNat]
  · obtain ⟨hinst, henv, hmem⟩ := frame mfIndexWrapEvent
    refine ⟨_, _, build_of_idle _ hidle, delivered_with3 .., hinst, henv, hmem, rfl, ?_, ?_⟩
    · simp [mfIndexWrapEvent, eventStatus_toNat]
    · simp [mfIndexWrapEvent, eventControl_toNat]

/-- A build that answers `event` answered the record it was given, and wrote nothing. -/
theorem build_answers {s t : State} {e event : Trb} (h : build s e = .next t)
    (hresult : t.result = some (.ok (.event event))) : event = e ∧ t.instances = s.instances ∧ memoryKept s t := by
  obtain ⟨-, rfl⟩ := build_eq_next.1 h
  obtain ⟨hinst, -, hmem⟩ := with3_frame s .idle (some (.ok (.event e)))
  rw [with3_result] at hresult
  cases hresult
  exact ⟨rfl, hinst, hmem⟩

/-- Settles O46: each builder's record has the control word of an event, of its own type. -/
theorem builtEventTypeAndCycle : Obligations.BuiltEventTypeAndCycle := by
  intro s t event i a b c d e n hi hexec hresult
  have built : ∀ (p : BitVec 64) (status : BitVec 32) (top second : BitVec 8) (type : BitVec 6), type.toNat = n →
      build s ⟨p, status, eventControl top second type⟩ = .next t →
      event.cycle = false ∧ event.trbType.toNat = n ∧ t.instances = s.instances ∧ memoryKept s t := by
    intro p status top second type htype hbuild
    obtain ⟨rfl, hframe⟩ := build_answers hbuild hresult
    exact ⟨cycle_eventControl .., by rw [trbType_eventControl, htype], hframe⟩
  simp only [List.mem_cons, Prod.mk.injEq, List.not_mem_nil, or_false] at hi
  obtain ⟨rfl, rfl⟩ | ⟨rfl, rfl⟩ | ⟨rfl, rfl⟩ | ⟨rfl, rfl⟩ | ⟨rfl, rfl⟩ | ⟨rfl, rfl⟩ := hi
  all_goals exact built _ _ _ _ _ rfl hexec

end Sys2Proof

/-! # One step (spec/30_encoding.md section 5, spec/60_exceptions.md R320, R330) and the reset (spec/10_state.md R41,
spec/70_reset_and_hazards.md R350, R351) -/

namespace Sys2Proof
open Machine

/-! ## The instruction a step fetches -/

theorem step_request {s : State} {bs : List Byte} {rest : List (List Byte)} {i : Instr} (hidle : s.activity = .idle)
    (hreq : s.requests = bs :: rest) (hdecode : decode .port bs = .ok i) :
    step s = exec i { takeTurn s with requests := rest } := by
  simp [step, fetch, hidle, fetchRequest, hreq, hdecode]

/-- Sixteen bytes read from memory decode to the record they hold. -/
theorem decodeTrb_of_decode_ring {bs : List Byte} {i : Instr} (h : decode .ring bs = .ok i) :
    decodeTrb (Trb.ofBytes bs) = i := by
  simp only [decode] at h
  split at h
  · exact Except.ok.inj h
  · cases h

/-- Settles O6: the three places an instruction is fetched from. -/
theorem stepRunsDecodedInstruction : Obligations.StepRunsDecodedInstruction := by
  refine ⟨fun s bs rest i hidle hreq hdecode => step_request hidle hreq hdecode, ?_, ?_⟩
  · intro s id gathered addr bs i hs hbound hread hdecode
    have htrb : readTrb (takeTurn s) addr = some (Trb.ofBytes bs) := by rw [readTrb, hread, Option.map_some]
    rw [step_refresh hs hbound htrb, ← exec_decodeTrb, decodeTrb_of_decode_ring hdecode]
  · intro s id start gather c t i hs hring hslot hdecode
    rw [decode_ring_toBytes] at hdecode
    rw [step_walk hs hring hslot, ← exec_decodeTrb, Except.ok.inj hdecode]

/-! ## Refusals (R320, D29) -/

/-- A code outside the table of R117 is none of the parser's codes. -/
theorem parseRequest_unknown {code : Byte} (operands : List Byte)
    (h : code.toNat ∉ [1, 2, 3, 4, 5, 16, 17, 18, 19, 20, 32, 33, 34, 35, 36, 37, 48, 49, 50]) :
    parseRequest (code :: operands) = .error (.unknownOperation code) := by
  simp only [List.mem_cons, List.not_mem_nil, or_false, not_or] at h
  rw [parseRequest]
  split
  case h_20 => rfl
  all_goals omega

theorem onConsumer_missing {s : State} {id : InstId} (k : ConsumerRing → Result) (h : findInst s.instances id = none) :
    onConsumer s id k = .refused (.noInstance id) := by rw [onConsumer, h]

theorem onEvent_missing {s : State} {id : InstId} (k : EventRing → Result) (h : findInst s.instances id = none) :
    onEvent s id k = .refused (.noInstance id) := by rw [onEvent, h]

theorem onConsumer_event {s : State} {id : InstId} {r : EventRing} (k : ConsumerRing → Result)
    (h : findInst s.instances id = some (.event r)) : onConsumer s id k = .refused (.wrongKind id) := by
  rw [onConsumer, h]

theorem onEvent_consumer {s : State} {id : InstId} {c : ConsumerRing} (k : EventRing → Result)
    (h : findInst s.instances id = some (.consumer c)) : onEvent s id k = .refused (.wrongKind id) := by
  rw [onEvent, h]

/-- An operation that names a ring, and is no create, looks the ring up first. -/
theorem exec_missing {s : State} {i : Instr} {id : InstId} (hidle : s.activity = .idle) (hid : i.instId = some id)
    (hcr : ∀ kind base, i ≠ .crCreate id kind base) (her : ∀ a n d, i ≠ .erCreate id a n d)
    (hnone : findInst s.instances id = none) : exec i s = .refused (.noInstance id) := by
  cases i with
  | crCreate _ kind base => cases hid; exact absurd rfl (hcr kind base)
  | erCreate _ a n d => cases hid; exact absurd rfl (her a n d)
  | crUpdateFromGuest | crReset | crDequeueTrb | crDequeueWorkItem =>
    cases hid
    exact (whenIdle_of_idle hidle).trans (onConsumer_missing _ hnone)
  | erIsFull | erEnqueue | erUpdateDequeuePointer | erUpdateSegmentTable =>
    cases hid
    exact (whenIdle_of_idle hidle).trans (onEvent_missing _ hnone)
  | _ => cases hid

/-- Settles O7: an unknown code is refused by the parser, the rest by the lookup of the ring. -/
theorem meaninglessRequestsRefused : Obligations.MeaninglessRequestsRefused := by
  refine ⟨?_, ?_, ?_, ?_⟩
  · intro s code operands rest hidle hreq hcode
    simp [step, fetch, hidle, fetchRequest, hreq, decode, decodeRequest, parseRequest_unknown operands hcode]
  · intro s i id hidle hid hcr her hnone
    exact exec_missing hidle hid hcr her hnone
  · intro s id r pointer hidle hring i hi
    simp only [List.mem_cons, List.not_mem_nil, or_false] at hi
    obtain rfl | rfl | rfl | rfl := hi
    all_goals exact (whenIdle_of_idle hidle).trans (onConsumer_event _ hring)
  · intro s id c addr n event hidle hring i hi
    simp only [List.mem_cons, List.not_mem_nil, or_false] at hi
    obtain rfl | rfl | rfl | rfl := hi
    all_goals exact (whenIdle_of_idle hidle).trans (onEvent_consumer _ hring)

/-! ## The environment's turn and the reset -/

/-- Settles O60: the turn sets memory, the turns to come and the verdict, and an idle engine adds nothing to it. -/
theorem guestReachesMemoryOnly : Obligations.GuestReachesMemoryOnly := by
  intro s
  refine ⟨takeTurn_instances s, takeTurn_activity s, takeTurn_result s, takeTurn_params s, takeTurn_requests s,
    takeTurn_freeCount s, takeTurn_turns s, fun hturns => ?_, fun hidle hreq => ?_⟩
  · rw [takeTurn_nil hturns]
  · simp [step, fetch, hidle, fetchRequest, hreq]

/-- With no ring and no operation in progress the invariant asks for memory and the bound alone. -/
theorem inv_of_no_instances {s : State} (hbound : s.params.maxRingTrbs ≤ 2 ^ 60) (hmem : s.mem.wf)
    (hinst : s.instances = []) (hidle : s.activity = .idle) : Inv s where
  bound := hbound
  memory := hmem
  keys := by rw [hinst]; exact List.Pairwise.nil
  instances := by simp [hinst]
  activity := by rw [hidle]; trivial

/-- Settles O47: a reset leaves no ring and no operation, and everything else as it was. -/
theorem resetStateMeetsInvariant : Obligations.ResetStateMeetsInvariant := by
  refine ⟨inv_of_no_instances (by decide) ⟨List.Pairwise.nil, by simp [State.reset]⟩ rfl rfl, fun _ => rfl, rfl,
    fun s => ⟨fun _ => rfl, rfl, rfl, ⟨fun _ => rfl, rfl⟩, ⟨rfl, rfl, rfl, rfl⟩, fun hinv => ?_⟩⟩
  exact inv_of_no_instances hinv.bound hinv.memory rfl rfl

end Sys2Proof

/-! # A record met by a refresh or by a walk (spec/40_trb_types.md, spec/41_consumer_ring.md sections 2, 4, 5, 6) -/

namespace Sys2Proof
open Machine

/-! ## A refresh: the bound, the failed read, the record (R182, R183, R185) -/

theorem step_refresh_tooLarge {s : State} {id : InstId} {gathered : List Trb} {addr : Addr}
    (hs : s.activity = .refresh id gathered addr) (hbound : s.params.maxRingTrbs ≤ gathered.length) :
    step s = .next ((takeTurn s).with3 s.instances .idle (some (.error .eRingTooLarge))) := by
  simp [step, fetch, hs, fetchFromMemory, hbound, raise_with3]

theorem step_refresh_readFails {s : State} {id : InstId} {gathered : List Trb} {addr : Addr}
    (hs : s.activity = .refresh id gathered addr) (hbound : gathered.length < s.params.maxRingTrbs)
    (hread : readTrb (takeTurn s) addr = none) :
    step s = .next ((takeTurn s).with3 s.instances .idle (some (.error (.eMem addr)))) := by
  simp [step, fetch, hs, fetchFromMemory, Nat.not_le.2 hbound, hread, raise_with3]

/-- Settles O13: the bound is tested before the read. -/
theorem ringTooLargeAtTheBound : Obligations.RingTooLargeAtTheBound := by
  intro s id gathered addr hs hbound
  exact ⟨_, step_refresh_tooLarge hs hbound.ge, delivered_with3 .., with3_instances ..⟩

/-- Settles O14: a failed read writes no ring. -/
theorem refreshReadFailureReported : Obligations.RefreshReadFailureReported := by
  intro s id gathered addr hs hbound hread
  exact ⟨_, step_refresh_readFails hs hbound hread, delivered_with3 .., with3_instances ..⟩

/-- Settles O15: a data record is appended, whatever it holds. -/
theorem refreshCopiesDataRecord : Obligations.RefreshCopiesDataRecord := by
  intro i trb s id gathered addr htrb hlink hs
  exact ⟨_, (exec_of_trb? htrb s).trans (atRecord_refresh_data hlink hs), underway_with3 .., with3_frame ..⟩

/-- The mask of R110 clears the low 4 bits. -/
theorem linkTarget_eq (p : BitVec 64) : linkTarget p = BitVec.ofNat 64 (p.toNat / 16 * 16) := by
  have hmask : ∀ i : Fin 64, (0xFFFFFFFFFFFFFFF0#64).getLsbD i = decide (4 ≤ (i : Nat)) := by decide
  have hshift : linkTarget p = (p >>> 4) <<< 4 := by
    ext i hi
    have := hmask ⟨i, hi⟩
    rw [BitVec.getLsbD_eq_getElem hi] at this
    by_cases h : i < 4
    · simp [linkTarget, this, h]
    · simp [linkTarget, this, h, Nat.not_lt.1 h, hi]
  apply BitVec.eq_of_toNat_eq
  rw [hshift, BitVec.toNat_shiftLeft, BitVec.toNat_ushiftRight, BitVec.toNat_ofNat, Nat.shiftRight_eq_div_pow,
    Nat.shiftLeft_eq]

theorem LinkTrb.parameter_toTrb (c : BitVec 6) (l : LinkTrb) : (l.toTrb c).parameter = l.parameter := rfl

/-- Settles O16: the Link is appended, and its masked target decides whether the refresh goes on. -/
theorem refreshFollowsLink : Obligations.RefreshFollowsLink := by
  intro l s id gathered addr c hs hring
  have hexec : exec (.link l) s = atRecord (l.toTrb 6#6) s := exec_of_trb? rfl s
  rw [atRecord_refresh_link (by simp) hs hring, LinkTrb.parameter_toTrb] at hexec
  rw [← linkTarget_eq, hexec]
  intro trb target
  by_cases htarget : linkTarget l.parameter = c.base
  · rw [if_pos htarget]
    obtain ⟨hfind, hothers, henv, hmem⟩ := with3_putInst_frame s id
      (.consumer { c with shadow := gathered ++ [l.toTrb 6#6] }) .idle (some (.ok .nothing))
    exact ⟨_, rfl, henv, hmem, fun h => absurd htarget h, fun _ => ⟨delivered_with3 .., hothers, hfind⟩⟩
  · rw [if_neg htarget]
    exact ⟨_, rfl, with3_sameEnvironment .., with3_memoryKept .., fun _ => ⟨underway_with3 .., rfl⟩,
      fun h => absurd h htarget⟩

/-! ## `cr_dequeue_trb` at a record (R189 to R192) -/

theorem exec_crDequeueTrb_walks {s : State} {id : InstId} {c : ConsumerRing} (hidle : s.activity = .idle)
    (hring : findInst s.instances id = some (.consumer c)) (hindex : c.dequeueIndex < c.shadow.length) :
    exec (.crDequeueTrb id) s = .next (s.with3 s.instances (.dequeue id c.dequeueIndex none) none) := by
  simp [exec, execCrDequeueTrb, whenIdle_of_idle hidle, onConsumer_of_find hring, hindex, continueWith_with3]

/-- Settles O21: the returned record is the one met, and the ring stored is the advanced one. -/
theorem walkReturnsDataRecord : Obligations.WalkReturnsDataRecord := by
  intro i trb s id start c htrb hlink hs hring hcycle
  rw [exec_of_trb? htrb, atRecord_walk_data hs hring hcycle hlink, walkReturns_trb]
  exact ⟨_, rfl, delivered_with3 .., with3_putInst_frame s id (.consumer (advanceIndex c)) ..⟩

theorem toggleOf_toTrb (l : LinkTrb) : toggleOf (l.toTrb 6#6) = l.toggleCycle := by
  rw [toggleOf, LinkTrb.isLink_toTrb, Config.toggleBit, LinkTrb.toggleCycleBit_toTrb]
  rfl

theorem passLink_eq (c : ConsumerRing) (toggle : Bool) :
    passLink c toggle
      = { c with dequeueIndex := (c.dequeueIndex + 1) % c.shadow.length, ccs := xor c.ccs toggle } := by
  rw [← passLink_ccs]
  rfl

/-- Settles O22: the ring is passed on in both cases, and the index alone decides which one it is. -/
theorem walkPassesLink : Obligations.WalkPassesLink := by
  intro l s id start c hs hring hcycle
  have hexec : exec (.link l) s = atRecord (l.toTrb 6#6) s := exec_of_trb? rfl s
  rw [atRecord_walk_link hs hring (by simpa using hcycle) (by simp), toggleOf_toTrb] at hexec
  rw [hexec, ← passLink_eq]
  by_cases hround : (c.dequeueIndex + 1) % c.shadow.length = start
  · rw [if_pos hround, walkEmpty_none]
    obtain ⟨hfind, hframe⟩ :=
      with3_putInst_frame s id (.consumer (passLink c l.toggleCycle)) .idle (some (.ok (.trb none)))
    exact ⟨_, rfl, hfind, fun h => absurd hround h, fun _ => delivered_with3 .., hframe⟩
  · rw [if_neg hround]
    obtain ⟨hfind, hframe⟩ :=
      with3_putInst_frame s id (.consumer (passLink c l.toggleCycle)) (.dequeue id start none) none
    exact ⟨_, rfl, hfind, fun _ => underway_with3 .., fun h => absurd h hround, hframe⟩

/-- Settles O23: an unavailable record is the empty end of the walk. -/
theorem unavailableSlotStopsWalk : Obligations.UnavailableSlotStopsWalk := by
  intro i trb s id start c htrb hs hring hcycle
  rw [exec_of_trb? htrb, atRecord_unavailable hs hring hcycle, walkEmpty_none]
  exact ⟨_, rfl, delivered_with3 .., with3_frame ..⟩

/-- A step of `cr_dequeue_trb` at an unavailable slot ends it and writes no ring. -/
theorem step_dequeue_unavailable {s : State} {id : InstId} {start : Nat} {c : ConsumerRing} {t : Trb}
    (hs : s.activity = .dequeue id start none) (hring : findInst s.instances id = some (.consumer c))
    (hslot : c.shadow[c.dequeueIndex]? = some t) (hcycle : t.cycle ≠ c.ccs) :
    step s = .next ((takeTurn s).with3 s.instances .idle (some (.ok (.trb none)))) := by
  rw [step_walk hs hring hslot, atRecord_unavailable (by simpa using hs) (by simpa using hring) hcycle,
    walkEmpty_none, takeTurn_instances]

/-- Settles O20: with a usable index the walk begins and its first step finds the slot unavailable. -/
theorem nonCurrentCycleReadsEmpty : Obligations.NonCurrentCycleReadsEmpty := by
  intro s id c hidle hring hcycles
  by_cases hindex : c.dequeueIndex < c.shadow.length
  · have hslot : c.shadow[c.dequeueIndex]? = some c.shadow[c.dequeueIndex] := List.getElem?_eq_getElem hindex
    have hcycle := hcycles _ (List.getElem_mem hindex)
    exact ⟨_, 1, _, exec_crDequeueTrb_walks hidle hring hindex, le_refl 1,
      runSteps_succ (step_dequeue_unavailable rfl hring hslot hcycle), delivered_with3 .., rfl⟩
  · exact ⟨_, 0, _, exec_crDequeueTrb_unusable hidle hring hindex, Nat.zero_le 1, rfl, delivered_with3 .., rfl⟩

/-! ## `cr_dequeue_work_item` at a record (R193 to R198) -/

/-- A transfer-class record has the chain bit of its view. -/
theorem chainOf_toTrb_transfer {code : BitVec 6} (hcode : chainBearing code = true) (f : TransferTrb) :
    chainOf (f.toTrb code) = f.chain := by
  rw [chainOf, TransferTrb.trbType_toTrb, hcode, Config.chainBit, TransferTrb.chainBit_toTrb, Bool.true_and]

/-- The five transfer-class instructions stand for data records with their view's cycle and chain bits. -/
theorem transferClass_record {f : TransferTrb} {i : Instr} {trb : Trb}
    (hi : i ∈ [Instr.normal f, .setupStage f, .dataStage f, .statusStage f, .isoch f]) (htrb : i.trb? = some trb) :
    trb.cycle = f.cycle ∧ trb.isLink = false ∧ chainOf trb = f.chain := by
  simp only [List.mem_cons, List.not_mem_nil, or_false] at hi
  obtain rfl | rfl | rfl | rfl | rfl := hi
  all_goals
    cases htrb
    exact ⟨by simp, by simp, chainOf_toTrb_transfer rfl f⟩

/-- The rollback of a ring that was advanced is the rollback of the ring. -/
theorem rollback_advanceIndex (c : ConsumerRing) (g : Gather) : rollback (advanceIndex c) g = rollback c g := rfl

/-- A work item at an available chained record goes on while slots are left, and is rolled back when all are passed. -/
theorem atRecord_item_chained {s : State} {t : Trb} {id : InstId} {start : Nat} {g : Gather} {c : ConsumerRing}
    (hs : s.activity = .dequeue id start (some g)) (hring : findInst s.instances id = some (.consumer c))
    (hcycle : t.cycle = c.ccs) (hlink : t.isLink = false) (hchain : chainOf t = true) :
    atRecord t s = if c.shadow.length ≤ g.passed + 1 then
        .next (s.with3 (putInst s.instances id (.consumer (rollback c g))) .idle (some (.error .eCyclicIncomplete)))
      else .next (s.with3 (putInst s.instances id (.consumer (advanceIndex c)))
        (.dequeue id (advanceIndex c).dequeueIndex
          (some { g with item := g.item ++ [t], passed := g.passed + 1 })) none) := by
  rw [atRecord_walk_data hs hring hcycle hlink, hchain, walkReturns_chain, putConsumer_instances, putInst_putInst,
    rollback_advanceIndex]
  rfl

/-- A work item at an available record without chain is complete. -/
theorem atRecord_item_last {s : State} {t : Trb} {id : InstId} {start : Nat} {g : Gather} {c : ConsumerRing}
    (hs : s.activity = .dequeue id start (some g)) (hring : findInst s.instances id = some (.consumer c))
    (hcycle : t.cycle = c.ccs) (hlink : t.isLink = false) (hchain : chainOf t = false) :
    atRecord t s = .next (s.with3 (putInst s.instances id (.consumer (advanceIndex c))) .idle
        (some (itemResult c.kind (g.item ++ [t])))) := by
  rw [atRecord_walk_data hs hring hcycle hlink, hchain, walkReturns_last]
  rfl

/-- Settles O25: the chain bit, and for a chained record the count of passed slots, decide between the three ends. -/
theorem transferClassChains : Obligations.TransferClassChains := by
  intro f s id start g c hs hring hcycle i hi trb htrb
  obtain ⟨htrbCycle, hlink, hchain⟩ := transferClass_record hi htrb
  have havail : trb.cycle = c.ccs := htrbCycle.trans hcycle
  rw [exec_of_trb? htrb]
  by_cases hf : f.chain = true
  · rw [atRecord_item_chained hs hring havail hlink (hchain.trans hf)]
    by_cases hfull : c.shadow.length ≤ g.passed + 1
    · rw [if_pos hfull]
      obtain ⟨hfind, hothers, henv, hmem⟩ := with3_putInst_frame s id (.consumer (rollback c g)) .idle
        (some (.error .eCyclicIncomplete))
      exact ⟨_, rfl, hothers, henv, hmem, fun _ h => absurd h (Nat.not_lt.2 hfull),
        fun _ _ => ⟨delivered_with3 .., hfind⟩, fun h => by simp [hf] at h⟩
    · rw [if_neg hfull]
      obtain ⟨hfind, hothers, henv, hmem⟩ := with3_putInst_frame s id (.consumer (advanceIndex c))
        (.dequeue id (advanceIndex c).dequeueIndex
          (some { g with item := g.item ++ [trb], passed := g.passed + 1 })) none
      exact ⟨_, rfl, hothers, henv, hmem, fun _ _ => ⟨underway_with3 .., hfind⟩, fun _ h => absurd h hfull,
        fun h => by simp [hf] at h⟩
  · rw [atRecord_item_last hs hring havail hlink (hchain.trans (Bool.eq_false_of_not_eq_true hf))]
    obtain ⟨hfind, hothers, henv, hmem⟩ := with3_putInst_frame s id (.consumer (advanceIndex c)) .idle
      (some (itemResult c.kind (g.item ++ [trb])))
    refine ⟨_, rfl, hothers, henv, hmem, fun h => absurd h hf, fun h => absurd h hf, fun _ hkind => ⟨?_, hfind⟩⟩
    rw [hkind]
    exact delivered_with3 ..

/-- A type outside 1 to 6 is no Link and bears no chain bit (R103, D15). -/
theorem plainType_record {t : Trb} (h : t.trbType.toNat = 0 ∨ 7 ≤ t.trbType.toNat) :
    t.isLink = false ∧ chainOf t = false := by
  constructor
  · rw [Trb.isLink, beq_eq_false_iff_ne]
    intro hlink
    rw [hlink] at h
    exact absurd h (by decide)
  · have : ¬ (1 ≤ t.trbType.toNat ∧ t.trbType.toNat ≤ 6) := by omega
    simp [chainOf, chainBearing, -Bool.and_eq_true, ← Bool.decide_and, this]

/-- Settles O26: such a record never chains, so it completes the item. -/
theorem otherTypesEndWorkItem : Obligations.OtherTypesEndWorkItem := by
  intro i trb s id start g c htrb htype hs hring hcycle hkind
  obtain ⟨hlink, hchain⟩ := plainType_record htype
  rw [exec_of_trb? htrb, atRecord_item_last hs hring hcycle hlink hchain]
  refine ⟨_, rfl, ?_, with3_putInst_frame s id (.consumer (advanceIndex c)) ..⟩
  rw [hkind]
  exact delivered_with3 ..

/-- Settles O27: whether something has been gathered decides between the rollback and `NoWork`. -/
theorem incompleteItemRolledBack : Obligations.IncompleteItemRolledBack := by
  intro i trb s id start g c htrb hs hring hcycle
  rw [exec_of_trb? htrb, atRecord_unavailable hs hring hcycle]
  by_cases hitem : g.item = []
  · rw [walkEmpty_noWork s id c hitem]
    exact ⟨_, rfl, fun _ _ => rfl, with3_sameEnvironment .., with3_memoryKept .., fun h => absurd hitem h,
      fun _ => ⟨delivered_with3 .., rfl⟩⟩
  · rw [walkEmpty_incomplete s id c hitem]
    obtain ⟨hfind, hothers, henv, hmem⟩ := with3_putInst_frame s id (.consumer (rollback c g)) .idle
      (some (.error .eIncomplete))
    exact ⟨_, rfl, hothers, henv, hmem, fun _ => ⟨delivered_with3 .., hfind⟩, fun h => absurd h hitem⟩

/-- Settles O29: both halves rest on `commandDescriptor`, which takes one TRB and no other number. -/
theorem commandDescriptorArity : Obligations.CommandDescriptorArity := by
  refine ⟨fun s trbs hidle => ?_, ?_⟩
  · obtain ⟨hinst, henv, hmem⟩ := with3_frame s .idle (some (commandDescriptorResult trbs))
    refine ⟨_, exec_cdFromTrbs trbs hidle, hinst, henv, hmem, ?_, fun hlen => ?_⟩
    · rintro trb rfl
      exact delivered_with3 ..
    · rw [commandDescriptorResult, commandDescriptor_of_length_ne_one hlen]
      exact delivered_with3 ..
  · intro i trb s id start g c htrb hlink hchain hs hring hcycle hkind
    rw [exec_of_trb? htrb, atRecord_item_last hs hring hcycle hlink hchain]
    refine ⟨_, rfl, findInst_putInst_self .., fun hitem => ?_, fun hitem => ?_⟩
    · rw [hkind, hitem]
      exact delivered_with3 ..
    · have hlen : (g.item ++ [trb]).length ≠ 1 := by simpa using hitem
      rw [hkind, itemResult, commandDescriptor_of_length_ne_one hlen, List.length_append]
      exact delivered_with3 ..

end Sys2Proof

/-! # Reading the segment table and enqueueing an event (spec/42_event_ring.md sections 1, 2, 4, 6) -/

namespace Sys2Proof
open Machine

/-! ## One step of `read_table` (R232) -/

theorem step_readTable {s : State} {id : InstId} {purpose : TablePurpose} {erstba : Addr} {erstsz : Nat}
    {raw : List Segment} (hs : s.activity = .readTable id purpose erstba erstsz raw) :
    step s = tableStep (takeTurn s) id purpose erstba erstsz raw := by
  simp [step, fetch, hs]

theorem tableStep_readFails {s : State} (id : InstId) (purpose : TablePurpose) {erstba : Addr} (erstsz : Nat)
    {raw : List Segment} (hread : memRead s (descriptorAddr erstba raw.length) = none) :
    tableStep s id purpose erstba erstsz raw
      = .next (s.with3 s.instances .idle (some (.error (.eMem (descriptorAddr erstba raw.length))))) := by
  simp [tableStep, hread, raise_with3]

theorem tableStep_goesOn {s : State} (id : InstId) (purpose : TablePurpose) {erstba : Addr} {erstsz : Nat}
    {raw : List Segment} {bytes : List Byte} (hread : memRead s (descriptorAddr erstba raw.length) = some bytes)
    (hmore : raw.length + 1 < erstsz) :
    tableStep s id purpose erstba erstsz raw
      = .next (s.with3 s.instances (.readTable id purpose erstba erstsz (raw ++ [decodeDescriptor bytes])) none) := by
  simp [tableStep, hread, Nat.not_le.2 hmore, continueWith_with3]

theorem tableStep_last {s : State} (id : InstId) (purpose : TablePurpose) {erstba : Addr} {erstsz : Nat}
    {raw : List Segment} {bytes : List Byte} (hread : memRead s (descriptorAddr erstba raw.length) = some bytes)
    (hlast : raw.length + 1 = erstsz) :
    tableStep s id purpose erstba erstsz raw = finishTable s id purpose (raw ++ [decodeDescriptor bytes]) := by
  simp [tableStep, hread, hlast]

/-! ## The end of `read_table`: validation, then the table is installed (R232, R231, R244) -/

theorem finishTable_invalid {s : State} (id : InstId) (purpose : TablePurpose) {table : List Segment} {k : Nat}
    (h : firstBadFrom 0 table = some k) :
    finishTable s id purpose table = .next (s.with3 s.instances .idle (some (.error (.eInvalidSegmentSize k)))) := by
  simp [finishTable, h, raise_with3]

theorem finishTable_create {s : State} (id : InstId) (erdp : Addr) {table : List Segment} {first : Segment}
    (hvalid : firstBadFrom 0 table = none) (hfirst : table[0]? = some first) :
    finishTable s id (.create erdp) table
      = .next (s.with3 (putInst s.instances id (.event (newEvent table first erdp))) .idle (some (.ok .nothing))) := by
  cases table with
  | nil => cases hfirst
  | cons g rest =>
    cases hfirst
    simp only [finishTable, hvalid, installTable]
    rfl

theorem finishTable_update {s : State} {id : InstId} {table : List Segment} {r : EventRing}
    (hvalid : firstBadFrom 0 table = none) (hring : findInst s.instances id = some (.event r)) :
    finishTable s id .update table
      = .next (s.with3 (putInst s.instances id (.event { r with segs := table })) .idle (some (.ok .nothing))) := by
  simp only [finishTable, hvalid, installTable, hring]
  rfl

/-- The environment's turn writes no ring, so keeping the others after it is keeping them from before it. -/
theorem othersKept_takeTurn {id : InstId} {s t : State} (h : othersKept id (takeTurn s) t) : othersKept id s t := by
  intro id' hne
  rw [h id' hne, takeTurn_instances]

/-- The step from a table read to the end stores the ring `q`: that ring is there, and every other is as before. -/
theorem takeTurn_putInst_frame (s : State) (id : InstId) (q : RingInstance) (a : Activity) (res : Option OpResult) :
    findInst ((takeTurn s).with3 (putInst (takeTurn s).instances id q) a res).instances id = some q ∧
      othersKept id s ((takeTurn s).with3 (putInst (takeTurn s).instances id q) a res) ∧
      sameEnvironment (takeTurn s) ((takeTurn s).with3 (putInst (takeTurn s).instances id q) a res) ∧
      memoryKept (takeTurn s) ((takeTurn s).with3 (putInst (takeTurn s).instances id q) a res) := by
  obtain ⟨hfind, hothers, hframe⟩ := with3_putInst_frame (takeTurn s) id q a res
  exact ⟨hfind, othersKept_takeTurn hothers, hframe⟩

/-- The step that writes no ring, seen from before the environment's turn. -/
theorem takeTurn_frame (s : State) (a : Activity) (res : Option OpResult) :
    ((takeTurn s).with3 (takeTurn s).instances a res).instances = s.instances ∧
      sameEnvironment (takeTurn s) ((takeTurn s).with3 (takeTurn s).instances a res) ∧
      memoryKept (takeTurn s) ((takeTurn s).with3 (takeTurn s).instances a res) :=
  ⟨takeTurn_instances s, with3_sameEnvironment .., with3_memoryKept ..⟩

theorem capValid_eq_false {g : Segment} (h : g.cap < 16 ∨ 4096 < g.cap) : capValid g = false := by
  rw [Bool.eq_false_iff, ne_eq, capValid_iff]
  omega

/-- Settles O34: the read, the count, the validation and the purpose select one of the ends above. -/
theorem tableStepReadsOrEnds : Obligations.TableStepReadsOrEnds := by
  intro s id purpose erstba erstsz raw hs
  rw [step_readTable hs]
  refine ⟨fun hread => ?_, fun bytes hread => ⟨fun hmore => ?_, fun k bad hlast hk hbad hbefore => ?_,
    fun hlast hcaps => ⟨fun erdp first hpurpose hfirst => ?_, fun r hpurpose hring => ?_⟩⟩⟩
  · exact ⟨_, tableStep_readFails id purpose erstsz hread, delivered_with3 .., takeTurn_frame ..⟩
  · exact ⟨_, tableStep_goesOn id purpose hread hmore, underway_with3 .., takeTurn_frame ..⟩
  · have hfirstBad := firstBadFrom_eq_some 0 hk (capValid_eq_false hbad)
      fun j hj g hg => capValid_iff.2 (hbefore j hj g hg)
    rw [Nat.zero_add] at hfirstBad
    rw [tableStep_last id purpose hread hlast]
    exact ⟨_, finishTable_invalid id purpose hfirstBad, delivered_with3 .., takeTurn_frame ..⟩
  all_goals
    have hvalid := firstBadFrom_eq_none 0 fun g hg => capValid_iff.2 (hcaps g hg)
    rw [tableStep_last id purpose hread hlast, hpurpose]
  · exact ⟨_, finishTable_create id erdp hvalid hfirst, delivered_with3 .., takeTurn_putInst_frame ..⟩
  · exact ⟨_, finishTable_update hvalid (by simpa using hring), delivered_with3 .., takeTurn_putInst_frame ..⟩

/-! ## The position after one record (R235, R237) -/

theorem advance_inside {r : EventRing} (h : 2 ≤ r.remaining) :
    advance r = some { r with enqueuePointer := r.enqueuePointer + 16#64, remaining := r.remaining - 1 } := by
  rw [advance, if_neg (by omega), nextSlotAddr]

theorem advance_exhausted {r : EventRing} {g : Segment} (h : r.remaining ≤ 1) (hg : r.segs[nextIndex r]? = some g) :
    advance r = some { r with
      segIndex := nextIndex r
      enqueuePointer := g.base
      remaining := g.cap
      pcs := pcsAfterSegment (decide (r.segs.length ≤ r.segIndex + 1)) r.pcs } := by
  rw [advance, if_pos (by omega), enterSegment, hg]

theorem advance_next {r : EventRing} {g : Segment} (h : r.remaining ≤ 1) (hnext : r.segIndex + 1 < r.segs.length)
    (hg : r.segs[r.segIndex + 1]? = some g) :
    advance r = some { r with segIndex := r.segIndex + 1, enqueuePointer := g.base, remaining := g.cap } := by
  rw [advance_exhausted h (by rwa [nextIndex_inside hnext]), nextIndex_inside hnext,
    decide_eq_false (Nat.not_le.2 hnext)]
  rfl

theorem advance_wraps {r : EventRing} {g : Segment} (h : r.remaining ≤ 1) (hwrap : r.segs.length ≤ r.segIndex + 1)
    (hg : r.segs[0]? = some g) :
    advance r
      = some { r with segIndex := 0, enqueuePointer := g.base, remaining := g.cap, pcs := !r.pcs } := by
  rw [advance_exhausted h (by rwa [nextIndex_wraps hwrap]), nextIndex_wraps hwrap, decide_eq_true hwrap]
  rfl

/-- The three ways the position moves: inside the segment, to the next one, or round to segment 0. -/
theorem advance_cases {r r' : EventRing} (h : advance r = some r') :
    (2 ≤ r.remaining → r' = { r with enqueuePointer := r.enqueuePointer + 16#64, remaining := r.remaining - 1 }) ∧
    (∀ g, r.remaining = 1 → r.segIndex + 1 < r.segs.length → r.segs[r.segIndex + 1]? = some g →
      r' = { r with segIndex := r.segIndex + 1, enqueuePointer := g.base, remaining := g.cap }) ∧
    (∀ g, r.remaining = 1 → r.segs.length ≤ r.segIndex + 1 → r.segs[0]? = some g →
      r' = { r with segIndex := 0, enqueuePointer := g.base, remaining := g.cap, pcs := !r.pcs }) := by
  refine ⟨fun hrem => ?_, fun g hrem hnext hg => ?_, fun g hrem hwrap hg => ?_⟩
  · exact Option.some.inj (h.symm.trans (advance_inside hrem))
  · exact Option.some.inj (h.symm.trans (advance_next hrem.le hnext hg))
  · exact Option.some.inj (h.symm.trans (advance_wraps hrem.le hwrap hg))

/-! ## The write of an enqueue, and what it leaves (R237, R241) -/

/-- The state an enqueue leaves when its write of `w` was answered `Ok`. -/
def afterEnqueue (s : State) (id : InstId) (a : Addr) (w : Trb) (r : EventRing) (res : OpResult) : State :=
  (afterWrite s a w).with3 (putInst s.instances id (.event r)) .idle (some res)

theorem writeAdvance_ok {s : State} {r r' : EventRing} {t : Trb} {done : State → EventRing → Result}
    (hwrite : writeOk s r.enqueuePointer = true) (hadvance : advance r = some r') :
    writeAdvance s r t done = done (afterWrite s r.enqueuePointer (stamp t r.pcs)) r' := by
  rw [writeAdvance, if_pos hwrite, hadvance]

theorem writeAdvance_fails {s : State} {r : EventRing} (t : Trb) (done : State → EventRing → Result)
    (hwrite : writeOk s r.enqueuePointer = false) :
    writeAdvance s r t done = .next ((afterFailedWrite s r.enqueuePointer).with3 s.instances .idle
      (some (.error (.eMem r.enqueuePointer)))) := by
  rw [writeAdvance, if_neg (by simp [hwrite]), raise_with3, afterFailedWrite_instances]

/-- With a known dequeue pointer an enqueue writes the full-notification record or the event (R238, R240). -/
theorem exec_erEnqueue_known {s : State} {id : InstId} {r : EventRing} {a d : Addr} (event : Trb)
    (hidle : s.activity = .idle) (hring : findInst s.instances id = some (.event r)) (hd : r.dequeuePointer = some d)
    (hnext : nextSlot r = some a) :
    exec (.erEnqueue id event) s = if a = d then
        writeAdvance s r erfTrb fun s' r' =>
          raise (putEvent s' id { r' with dequeuePointer := none }) (.eventRingFull event true)
      else writeAdvance s r event fun s' r' => finish (putEvent s' id r') .accepted := by
  simp only [exec, execErEnqueue, whenIdle_of_idle hidle, onEvent_of_find hring, hd, hnext]

theorem exec_erEnqueue_accepted {s : State} {id : InstId} {r r' : EventRing} {d : Addr} (event : Trb)
    (hidle : s.activity = .idle) (hring : findInst s.instances id = some (.event r)) (hsegs : r.segs ≠ [])
    (hd : r.dequeuePointer = some d) (hfull : nextSlot r ≠ some d) (hwrite : writeOk s r.enqueuePointer = true)
    (hadvance : advance r = some r') :
    exec (.erEnqueue id event) s
      = .next (afterEnqueue s id r.enqueuePointer (stamp event r.pcs) r' (.ok .accepted)) := by
  obtain ⟨a, ha⟩ := nextSlot_isSome hsegs
  have hne : a ≠ d := fun h => hfull (ha.trans (congrArg some h))
  rw [exec_erEnqueue_known event hidle hring hd ha, if_neg hne, writeAdvance_ok hwrite hadvance]
  exact afterWrite_done ..

theorem exec_erEnqueue_full {s : State} {id : InstId} {r r' : EventRing} {d : Addr} (event : Trb)
    (hidle : s.activity = .idle) (hring : findInst s.instances id = some (.event r)) (hd : r.dequeuePointer = some d)
    (hfull : nextSlot r = some d) (hwrite : writeOk s r.enqueuePointer = true) (hadvance : advance r = some r') :
    exec (.erEnqueue id event) s
      = .next (afterEnqueue s id r.enqueuePointer (stamp erfTrb r.pcs) { r' with dequeuePointer := none }
          (.error (.eventRingFull event true))) := by
  rw [exec_erEnqueue_known event hidle hring hd hfull, if_pos rfl, writeAdvance_ok hwrite hadvance]
  exact afterWrite_done ..

theorem exec_erEnqueue_fails {s : State} {id : InstId} {r : EventRing} {d : Addr} (event : Trb)
    (hidle : s.activity = .idle) (hring : findInst s.instances id = some (.event r)) (hsegs : r.segs ≠ [])
    (hd : r.dequeuePointer = some d) (hwrite : writeOk s r.enqueuePointer = false) :
    exec (.erEnqueue id event) s = .next ((afterFailedWrite s r.enqueuePointer).with3 s.instances .idle
      (some (.error (.eMem r.enqueuePointer)))) := by
  obtain ⟨a, ha⟩ := nextSlot_isSome hsegs
  rw [exec_erEnqueue_known event hidle hring hd ha]
  split
  · exact writeAdvance_fails _ _ hwrite
  · exact writeAdvance_fails _ _ hwrite

/-- What an enqueue leaves: the record at the enqueue pointer, and everything but that record and the ring as before. -/
theorem afterEnqueue_frame (s : State) (id : InstId) (a : Addr) (w : Trb) (r : EventRing) (res : OpResult) :
    delivered (afterEnqueue s id a w r res) res ∧
      readBytes (afterEnqueue s id a w r res).mem a 16 = some w.toBytes ∧
      memoryKeptOutside a s (afterEnqueue s id a w r res) ∧
      (afterEnqueue s id a w r res).freeCount = s.freeCount ∧
      findInst (afterEnqueue s id a w r res).instances id = some (.event r) ∧
      othersKept id s (afterEnqueue s id a w r res) ∧ sameEnvironment s (afterEnqueue s id a w r res) := by
  unfold afterEnqueue
  refine ⟨delivered_with3 .., ?_, fun x hx => ?_, ?_, findInst_putInst_self ..,
    fun id' h => findInst_putInst_of_ne _ _ h,
    ?_⟩
  · rw [with3_mem, afterWrite_mem, ← w.length_toBytes]
    exact readBytes_writeBytes _ _ _ (by simp)
  · rw [with3_mem, afterWrite_mem]
    exact byteAt_writeBytes_outside _ _ _ _ (by simpa using hx)
  · rw [with3_freeCount, afterWrite_freeCount]
  · simp [sameEnvironment]

/-- Settles O37: the event is stamped and written, and the ring moves as `advance` says. -/
theorem enqueueWritesAndAdvances : Obligations.EnqueueWritesAndAdvances := by
  intro s id event r d hidle hring hsegs hrem hd hfull hwrite
  obtain ⟨r', hadvance⟩ := advance_isSome hsegs
  obtain ⟨hdelivered, hread, hmem, hfree, hfind, hothers, henv⟩ :=
    afterEnqueue_frame s id r.enqueuePointer (stamp event r.pcs) r' (.ok .accepted)
  exact ⟨_, r', stamp event r.pcs, exec_erEnqueue_accepted event hidle hring hsegs hd hfull hwrite hadvance,
    hdelivered,
    rfl, rfl, stamp_cycle .., fun k hk => stamp_control_bit event r.pcs k hk, hread, hmem, hfree, hfind, hothers, henv,
    advance_cases hadvance⟩

/-- The full-notification record as the numbers of R242. -/
theorem stamp_erfTrb (pcs : Bool) :
    stamp erfTrb pcs = ⟨0, 0x15000000, if pcs then 0x00009401 else 0x00009400⟩ := by
  cases pcs <;> decide

/-- Settles O38: the full-notification record is written in the event's place, and the pointer becomes unknown. -/
theorem enqueueFullWritesNotification : Obligations.EnqueueFullWritesNotification := by
  intro s id event r d hidle hring hsegs hd hfull hwrite
  obtain ⟨r', hadvance⟩ := advance_isSome hsegs
  obtain ⟨hdelivered, hread, hmem, hfree, hfind, hothers, henv⟩ :=
    afterEnqueue_frame s id r.enqueuePointer (stamp erfTrb r.pcs) { r' with dequeuePointer := none }
      (.error (.eventRingFull event true))
  rw [← stamp_erfTrb]
  exact ⟨_, r', exec_erEnqueue_full event hidle hring hd hfull hwrite hadvance, hdelivered, hread, hmem, hfree,
    hadvance,
    hfind, hothers, henv, advance_cases hadvance⟩

/-- A failed write changes no byte outside those it was aimed at. -/
theorem byteAt_scrambleBytes_outside (m : Memory) (a : Addr) (k n x : Nat)
    (h : ∀ i < n, x ≠ (a + BitVec.ofNat 64 i).toNat) : byteAt (scrambleBytes m a k n) x = byteAt m x := by
  induction n generalizing m a k with
  | zero => rfl
  | succ n ih =>
    have hhead : x ≠ a.toNat := by simpa using h 0 (Nat.succ_pos n)
    have htail : ∀ i < n, x ≠ (a + 1#64 + BitVec.ofNat 64 i).toNat := fun i hi => by
      have := h (i + 1) (Nat.succ_lt_succ hi)
      rwa [BitVec.add_assoc, ← BitVec.ofNat_add, Nat.add_comm]
    rw [scrambleBytes]
    split
    · exact ih _ _ _ htail
    · rw [ih _ _ _ htail, byteAt_setByte_of_ne _ _ hhead]

/-- Settles O39: a failed write touches its 16 bytes and no ring, in the full case too. -/
theorem enqueueWriteFailureLeavesRing : Obligations.EnqueueWriteFailureLeavesRing := by
  intro s id event r d hidle hring hsegs hd hwrite
  refine ⟨_, exec_erEnqueue_fails event hidle hring hsegs hd hwrite, delivered_with3 .., rfl, fun x hx => ?_,
    ⟨rfl, rfl, rfl, rfl⟩⟩
  rw [with3_mem, afterFailedWrite_mem]
  exact byteAt_scrambleBytes_outside _ _ _ _ _ hx

/-! ## The position stays a slot of the table (R31) -/

/-- Which slot the position is does not depend on the dequeue pointer. -/
theorem positioned_dequeuePointer {r : EventRing} (d : Option Addr) (h : r.positioned) :
    EventRing.positioned { r with dequeuePointer := d } := h

/-- A slot one further in the segment is 16 bytes further. -/
theorem slotAddr_succ (base : Addr) (k : Nat) :
    base + BitVec.ofNat 64 (16 * k) + 16#64 = base + BitVec.ofNat 64 (16 * (k + 1)) := by
  rw [BitVec.add_assoc, ← BitVec.ofNat_add, Nat.mul_succ]

theorem advance_positioned {r r' : EventRing} (hcaps : ∀ g ∈ r.segs, capValid g = true) (hpos : r.positioned)
    (hadvance : advance r = some r') : r'.positioned := by
  obtain ⟨g, hg, hrem, hcap, hptr⟩ := hpos
  by_cases hinside : 2 ≤ r.remaining
  · obtain rfl := Option.some.inj ((advance_inside hinside).symm.trans hadvance)
    refine ⟨g, hg, Nat.le_sub_of_add_le hinside, (Nat.sub_le _ _).trans hcap, ?_⟩
    show r.enqueuePointer + 16#64 = g.base + BitVec.ofNat 64 (16 * (g.cap - (r.remaining - 1)))
    rw [hptr, slotAddr_succ, show g.cap - (r.remaining - 1) = g.cap - r.remaining + 1 by omega]
  · have hsegs : r.segs ≠ [] := List.ne_nil_of_mem (List.mem_of_getElem? hg)
    obtain ⟨g', hentry⟩ : ∃ g', r.segs[nextIndex r]? = some g' := ⟨_, List.getElem?_eq_getElem (nextIndex_lt hsegs)⟩
    obtain ⟨hlow, -⟩ := capValid_iff.1 (hcaps _ (List.mem_of_getElem? hentry))
    obtain rfl := Option.some.inj ((advance_exhausted (by omega) hentry).symm.trans hadvance)
    exact ⟨_, hentry, (by decide : 1 ≤ 16).trans hlow, le_refl _, by simp⟩

/-- Settles O41: an enqueue leaves the ring, or the ring advanced by one record. -/
theorem positionStaysASlot : Obligations.PositionStaysASlot := by
  intro s t id event r r' hcaps hring hpos hexec hring'
  obtain ⟨-, heffect⟩ := erEnqueue_next hexec
  have unchanged (h : findInst s.instances id = some (.event r')) : r'.positioned := by
    cases hring.symm.trans h
    exact hpos
  cases heffect with
  | answer | table | failed => exact unchanged hring'
  | accepted _ _ r₀ r₁ d hr hd hf ha =>
    cases hring.symm.trans hr
    cases hring'.symm.trans (findInst_putInst_self ..)
    exact advance_positioned hcaps hpos ha
  | full _ _ r₀ r₁ d hr hd hf ha =>
    cases hring.symm.trans hr
    cases hring'.symm.trans (findInst_putInst_self ..)
    exact positioned_dequeuePointer none (advance_positioned hcaps hpos ha)

end Sys2Proof

/-! # What an instruction and a step leave alone (spec/10_state.md R20 to R39, spec/20_memory.md R65, R85) -/

namespace Sys2Proof
open Machine

/-! ## Two kinds of instruction -/

/-- An instruction that answers a next state is a record met by the operation in progress, or a request to an idle
engine. -/
theorem exec_next {i : Instr} {s t : State} (h : exec i s = .next t) :
    (∃ trb, i.trb? = some trb ∧ atRecord trb s = .next t) ∨ (s.activity = .idle ∧ OperationEffect s i t) := by
  cases htrb : i.trb? with
  | some trb => exact .inl ⟨trb, rfl, (exec_of_trb? htrb s).symm.trans h⟩
  | none => exact .inr (exec_operation_next htrb h)

/-! ## What each kind of step can store -/

/-- The step from `s` to `t` writes nothing but, at most, one ring whose identifier is `named`. -/
structure StoresAtMost (named : Option InstId) (s t : State) : Prop where
  environment : sameEnvironment s t
  memory : memoryKept s t
  stored : t.instances = s.instances ∨ ∃ id q, named = some id ∧ t.instances = putInst s.instances id q

/-- A record writes at most the ring of the operation in progress. -/
theorem atRecord_frame {trb : Trb} {s t : State} (h : atRecord trb s = .next t) :
    StoresAtMost s.activity.instId s t := by
  obtain ⟨m, a, r, rfl, -, hm | ⟨id, c, c', hid, -, hm, -⟩⟩ := atRecord_next h
  · exact ⟨with3_sameEnvironment .., with3_memoryKept .., .inl hm⟩
  · exact ⟨with3_sameEnvironment .., with3_memoryKept .., .inr ⟨id, _, hid, hm⟩⟩

/-- A step of `read_table` writes at most the ring it is for. -/
theorem tableEffect_frame {s t : State} {id : InstId} {purpose : TablePurpose} {erstba : Addr} {erstsz : Nat}
    {raw : List Segment} (h : TableEffect s id purpose erstba erstsz raw t) :
    StoresAtMost (some id) s t := by
  cases h with
  | fails | goesOn => exact ⟨with3_sameEnvironment .., with3_memoryKept .., .inl rfl⟩
  | creates | updates => exact ⟨with3_sameEnvironment .., with3_memoryKept .., .inr ⟨id, _, rfl, rfl⟩⟩

/-- A walk that finds nothing leaves the rings, or rolls its own ring back with `E_INCOMPLETE`. -/
theorem walkEmpty_next {s t : State} {id : InstId} {c : ConsumerRing} {gather : Option Gather}
    (h : walkEmpty s id c gather = .next t) :
    (∃ r, t = s.with3 s.instances .idle (some r)) ∨
      ∃ g, gather = some g ∧
        t = s.with3 (putInst s.instances id (.consumer (rollback c g))) .idle (some (.error .eIncomplete)) := by
  cases gather with
  | none => rw [walkEmpty_none] at h; cases h; exact .inl ⟨_, rfl⟩
  | some g =>
    by_cases hitem : g.item = []
    · rw [walkEmpty_noWork s id c hitem] at h; cases h; exact .inl ⟨_, rfl⟩
    · rw [walkEmpty_incomplete s id c hitem] at h; cases h; exact .inr ⟨g, rfl, rfl⟩

theorem walkEmpty_frame {s t : State} {id : InstId} {c : ConsumerRing} {gather : Option Gather}
    (h : walkEmpty s id c gather = .next t) :
    StoresAtMost (some id) s t := by
  obtain ⟨r, rfl⟩ | ⟨g, -, rfl⟩ := walkEmpty_next h
  · exact ⟨with3_sameEnvironment .., with3_memoryKept .., .inl rfl⟩
  · exact ⟨with3_sameEnvironment .., with3_memoryKept .., .inr ⟨id, _, rfl, rfl⟩⟩

/-- A request writes at most the ring it names. -/
theorem operationEffect_instances {s t : State} {i : Instr} (h : OperationEffect s i t) :
    t.instances = s.instances ∨ ∃ id q, i.instId = some id ∧ t.instances = putInst s.instances id q := by
  cases h with
  | answer | refresh | walk | workItem | table | failed => exact .inl rfl
  | create | reset | acknowledge | accepted | full => exact .inr ⟨_, _, rfl, rfl⟩

theorem operationEffect_sameEnvironment {s t : State} {i : Instr} (h : OperationEffect s i t) :
    sameEnvironment s t := by
  cases h with
  | accepted | full | failed => simp [sameEnvironment]
  | _ => exact with3_sameEnvironment ..

theorem operationEffect_memoryKept {s t : State} {i : Instr} (h : OperationEffect s i t)
    (hne : ∀ id event, i ≠ .erEnqueue id event) : memoryKept s t := by
  cases h with
  | accepted | full | failed => exact absurd rfl (hne _ _)
  | _ => exact with3_memoryKept ..

/-- A request the step takes after the environment's turn is the request taken. -/
theorem requestTaken_of_takeTurn {s : State} {bs : List Byte} {rest : List (List Byte)} {i : Instr}
    (hidle : (takeTurn s).activity = .idle) (hreq : (takeTurn s).requests = bs :: rest)
    (hdecode : decode .port bs = .ok i) : requestTaken s i := by
  rw [takeTurn_activity] at hidle
  rw [takeTurn_requests] at hreq
  exact ⟨hidle, bs, rest, hreq, hdecode⟩

/-! ## Memory, the environment, the other rings -/

/-- Settles O52: records, table steps and all requests but `er_enqueue` leave memory alone. -/
theorem onlyEnqueueWritesMemory : Obligations.OnlyEnqueueWritesMemory := by
  refine ⟨fun i s t hexec hne => ?_, fun s t hstep hne => ?_⟩
  · obtain ⟨trb, -, hrec⟩ | ⟨-, heffect⟩ := exec_next hexec
    · exact (atRecord_frame hrec).memory
    · exact operationEffect_memoryKept heffect hne
  · cases step_next hstep with
    | rest => exact ⟨fun _ => rfl, rfl⟩
    | request bs rest i t hidle hreq hdecode hi hexec heffect =>
      have htaken := requestTaken_of_takeTurn hidle hreq hdecode
      have hmem : memoryKept { takeTurn s with requests := rest } t :=
        operationEffect_memoryKept heffect fun id event h => hne id event (h ▸ htaken)
      exact hmem
    | record trb t hat hrec => exact (atRecord_frame hrec).memory
    | refreshFails => exact with3_memoryKept ..
    | table id purpose erstba erstsz raw t hs htable => exact (tableEffect_frame htable).memory
    | lost id start g c t hs hring hindex hwalk => exact (walkEmpty_frame hwalk).memory

theorem params_of_sameEnvironment {s t : State} (h : sameEnvironment s t) : t.params = s.params :=
  h.1

/-- Settles O53: no kind of step writes the environment's fields; a request is taken off the port by the fetch. -/
theorem parametersFixed : Obligations.ParametersFixed := by
  refine ⟨fun s t hstep => ?_, fun i s t hexec => ?_⟩
  · rw [← takeTurn_params s]
    cases step_next hstep with
    | rest | refreshFails => rfl
    | request bs rest i t hidle hreq hdecode hi hexec heffect =>
      exact params_of_sameEnvironment (s := { takeTurn s with requests := rest })
        (operationEffect_sameEnvironment heffect)
    | record trb t hat hrec => exact params_of_sameEnvironment (atRecord_frame hrec).environment
    | table id purpose erstba erstsz raw t hs htable =>
      exact params_of_sameEnvironment (tableEffect_frame htable).environment
    | lost id start g c t hs hring hindex hwalk =>
      exact params_of_sameEnvironment (walkEmpty_frame hwalk).environment
  · obtain ⟨trb, -, hrec⟩ | ⟨-, heffect⟩ := exec_next hexec
    · exact (atRecord_frame hrec).environment
    · exact operationEffect_sameEnvironment heffect

/-- A step that stores at most the ring `id'` leaves the ring of any other identifier. -/
theorem findInst_of_stored {m m' : Instances} {id id' : InstId} {q : RingInstance} (hstored : m' = putInst m id' q)
    (hne : id ≠ id') : findInst m' id = findInst m id := by
  rw [hstored, findInst_putInst_of_ne m q hne]

/-- A step stores at most the ring of the operation in progress or of the request it takes. -/
theorem step_instances {s t : State} (h : step s = .next t) :
    t.instances = s.instances ∨ ∃ id q, t.instances = putInst s.instances id q ∧
      (s.activity.instId = some id ∨ ∃ i, requestTaken s i ∧ i.instId = some id) := by
  rw [← takeTurn_instances s, ← takeTurn_activity s]
  cases step_next h with
  | rest => exact .inl rfl
  | request bs rest i t hidle hreq hdecode hi hexec heffect =>
    obtain hkept | ⟨id, q, hid, hstored⟩ := operationEffect_instances heffect
    · exact .inl hkept
    · exact .inr ⟨id, q, hstored, .inr ⟨i, requestTaken_of_takeTurn hidle hreq hdecode, hid⟩⟩
  | record trb t hat hrec =>
    obtain hkept | ⟨id, q, hid, hstored⟩ := (atRecord_frame hrec).stored
    · exact .inl hkept
    · exact .inr ⟨id, q, hstored, .inl hid⟩
  | refreshFails => exact .inl rfl
  | table id purpose erstba erstsz raw t hs htable =>
    obtain hkept | ⟨id', q, hid, hstored⟩ := (tableEffect_frame htable).stored
    · exact .inl hkept
    · exact .inr ⟨id', q, hstored, .inl (hid ▸ hs ▸ rfl)⟩
  | lost id start g c t hs hring hindex hwalk =>
    obtain hkept | ⟨id', q, hid, hstored⟩ := (walkEmpty_frame hwalk).stored
    · exact .inl hkept
    · exact .inr ⟨id', q, hstored, .inl (hid ▸ hs ▸ rfl)⟩

/-- Settles O54: at most one ring is stored, and it is the one named. -/
theorem instancesIndependent : Obligations.InstancesIndependent := by
  refine ⟨fun i s t id hexec hnamed hbusy => ?_, fun s t id hstep hnamed hbusy => ?_⟩
  · obtain ⟨trb, -, hrec⟩ | ⟨-, heffect⟩ := exec_next hexec
    · obtain hkept | ⟨id', q, hid, hstored⟩ := (atRecord_frame hrec).stored
      · rw [hkept]
      · exact findInst_of_stored hstored fun h => hbusy (h ▸ hid)
    · obtain hkept | ⟨id', q, hid, hstored⟩ := operationEffect_instances heffect
      · rw [hkept]
      · exact findInst_of_stored hstored fun h => hnamed (h ▸ hid)
  · obtain hkept | ⟨id', q, hstored, hid | ⟨i, htaken, hid⟩⟩ := step_instances hstep
    · rw [hkept]
    · exact findInst_of_stored hstored fun h => hbusy (h ▸ hid)
    · exact findInst_of_stored hstored fun h => hnamed i htaken (h ▸ hid)

/-! ## A Consumer Ring that is there before and after -/

/-- What is stored under `id` is found there, and under any other identifier the ring is as before. -/
theorem findInst_putInst_cases {m : Instances} {id id' : InstId} {q q' : RingInstance}
    (h : findInst (putInst m id' q') id = some q) : (id = id' ∧ q = q') ∨ findInst m id = some q := by
  by_cases hid : id = id'
  · subst hid
    rw [findInst_putInst_self] at h
    exact .inl ⟨rfl, (Option.some.inj h).symm⟩
  · rw [findInst_putInst_of_ne m q' hid] at h
    exact .inr h

/-- A request other than a create of that ring changes at most its index. -/
theorem operationEffect_consumer {s t : State} {i : Instr} {id : InstId} {c c' : ConsumerRing}
    (h : OperationEffect s i t) (hne : ∀ kind base, i ≠ .crCreate id kind base)
    (hc : findInst s.instances id = some (.consumer c)) (hc' : findInst t.instances id = some (.consumer c')) :
    c' = { c with dequeueIndex := c'.dequeueIndex } := by
  have unchanged (h : findInst s.instances id = some (.consumer c')) :
      c' = { c with dequeueIndex := c'.dequeueIndex } := by
    cases hc.symm.trans h
    rfl
  cases h with
  | answer | refresh | walk | workItem | table | failed => exact unchanged hc'
  | create id' kind base =>
    obtain ⟨rfl, -⟩ | hkept := findInst_putInst_cases hc'
    · exact absurd rfl (hne kind base)
    · exact unchanged hkept
  | reset id' pointer c₀ hc₀ =>
    obtain ⟨rfl, heq⟩ | hkept := findInst_putInst_cases hc'
    · cases heq
      cases hc.symm.trans hc₀
      rfl
    · exact unchanged hkept
  | acknowledge | accepted | full =>
    obtain ⟨-, heq⟩ | hkept := findInst_putInst_cases hc'
    · cases heq
    · exact unchanged hkept

/-- A record leaves a Consumer Ring as it was, or has on it one of the effects of a record. -/
theorem atRecord_consumer {s t : State} {trb : Trb} {id : InstId} {c c' : ConsumerRing} (h : atRecord trb s = .next t)
    (hc : findInst s.instances id = some (.consumer c)) (hc' : findInst t.instances id = some (.consumer c')) :
    c' = c ∨ RecordEffect s trb id c c' t.result := by
  obtain ⟨m, a, r, rfl, -, rfl | ⟨id', c₀, c₁, -, hc₀, rfl, heffect⟩⟩ := atRecord_next h
  · cases hc.symm.trans hc'
    exact .inl rfl
  · obtain ⟨rfl, heq⟩ | hkept := findInst_putInst_cases hc'
    · cases heq
      cases hc.symm.trans hc₀
      exact .inr heffect
    · cases hc.symm.trans hkept
      exact .inl rfl

/-- What a step can do to a Consumer Ring that is there before and after it. -/
inductive ConsumerStep (s : State) (id : InstId) (c c' : ConsumerRing) (res : Option OpResult) : Prop where
  /-- nothing, or a new index -/
  | index (h : c' = { c with dequeueIndex := c'.dequeueIndex })
  /-- the effect of the record the refresh or the walk is at -/
  | record (trb : Trb)
      (hat : (∃ id' g a, s.activity = .refresh id' g a ∧ readTrb (takeTurn s) a = some trb) ∨
        ∃ id' start g c₀, s.activity = .dequeue id' start g ∧ findInst s.instances id' = some (.consumer c₀) ∧
          c₀.shadow[c₀.dequeueIndex]? = some trb)
      (h : RecordEffect (takeTurn s) trb id c c' res)
  /-- the rollback of a work item whose index is out of range (in states no run reaches) -/
  | rollback (start : Nat) (g : Gather) (hs : s.activity = .dequeue id start (some g)) (h : c' = rollback c g)
      (hres : res = some (.error .eIncomplete))

theorem step_consumer {s t : State} {id : InstId} {c c' : ConsumerRing} (h : step s = .next t)
    (hne : ∀ kind base, ¬ requestTaken s (.crCreate id kind base))
    (hc : findInst s.instances id = some (.consumer c)) (hc' : findInst t.instances id = some (.consumer c')) :
    ConsumerStep s id c c' t.result := by
  have hturn : findInst (takeTurn s).instances id = some (.consumer c) := by rwa [takeTurn_instances]
  have unchanged (h : findInst (takeTurn s).instances id = some (.consumer c')) : ConsumerStep s id c c' t.result := by
    cases hturn.symm.trans h
    exact .index rfl
  cases step_next h with
  | rest | refreshFails => exact unchanged hc'
  | request bs rest i t hidle hreq hdecode hi hexec heffect =>
    have htaken := requestTaken_of_takeTurn hidle hreq hdecode
    exact .index (operationEffect_consumer heffect (fun kind base h => hne kind base (h ▸ htaken)) hturn hc')
  | record trb t hat hrec =>
    obtain rfl | heffect := atRecord_consumer hrec hturn hc'
    · exact .index rfl
    · refine .record trb ?_ heffect
      obtain ⟨id', g, a, hs, -, hread⟩ | ⟨id', start, g, c₀, hs, hring, hslot⟩ := hat
      · exact .inl ⟨id', g, a, (takeTurn_activity s) ▸ hs, hread⟩
      · exact .inr ⟨id', start, g, c₀, (takeTurn_activity s) ▸ hs, (takeTurn_instances s) ▸ hring, hslot⟩
  | table id' purpose erstba erstsz raw t hs htable =>
    cases htable with
    | fails | goesOn => exact unchanged hc'
    | creates | updates =>
      obtain ⟨-, heq⟩ | hkept := findInst_putInst_cases hc'
      · cases heq
      · exact unchanged hkept
  | lost id' start g c₀ t hs hring hindex hwalk =>
    obtain ⟨r, rfl⟩ | ⟨g', rfl, rfl⟩ := walkEmpty_next hwalk
    · exact unchanged hc'
    · obtain ⟨rfl, heq⟩ | hkept := findInst_putInst_cases hc'
      · cases heq
        cases hturn.symm.trans hring
        exact .rollback start g' ((takeTurn_activity s) ▸ hs) rfl rfl
      · exact unchanged hkept

/-- A Link record is the record of its Link view. -/
theorem exists_link_of_isLink {t : Trb} (h : t.isLink = true) : ∃ l : LinkTrb, t = l.toTrb 6#6 := by
  have htype : t.trbType = 6#6 := by simpa [Trb.isLink] using h
  exact ⟨.ofTrb t, by rw [← htype, LinkTrb.toTrb_ofTrb]⟩

theorem isLink_of_closesRing {base : Addr} {t : Trb} (h : closesRing base t = true) : t.isLink = true :=
  (Bool.and_eq_true_iff.1 h).1

/-- Settles O55: `RecordEffect` says when a record changes `shadow`; nothing else does. -/
theorem shadowWrittenByRefreshOnly : Obligations.ShadowWrittenByRefreshOnly := by
  refine ⟨fun i s t id c c' hexec hne hc hc' => ?_, fun s t id c c' hstep hne hc hc' => ?_⟩
  · obtain ⟨trb, htrb, hrec⟩ | ⟨-, heffect⟩ := exec_next hexec
    · obtain rfl | ⟨hkind, hbase, hshadow, -⟩ := atRecord_consumer hrec hc hc'
      · exact ⟨rfl, rfl, fun h => absurd rfl h⟩
      · refine ⟨hkind, hbase, fun hchanged => ?_⟩
        obtain hkept | ⟨gathered, addr, hs, hcloses, hnew, -⟩ := hshadow
        · exact absurd hkept hchanged
        · obtain ⟨l, rfl⟩ := exists_link_of_isLink (isLink_of_closesRing hcloses)
          have hi : i = .link l := (decodeTrb_of_trb? htrb).symm.trans (decodeTrb_toTrb_link l)
          exact ⟨l, gathered, addr, hi, hs, hcloses, hnew⟩
    · rw [operationEffect_consumer heffect hne hc hc']
      exact ⟨rfl, rfl, fun h => absurd rfl h⟩
  · cases step_consumer hstep hne hc hc' with
    | index h =>
      rw [h]
      exact ⟨rfl, rfl, fun h => absurd rfl h⟩
    | rollback start g hs h =>
      rw [h]
      exact ⟨rfl, rfl, fun h => absurd rfl h⟩
    | record trb hat heffect =>
      obtain ⟨hkind, hbase, hshadow, -⟩ := heffect
      refine ⟨hkind, hbase, fun hchanged => ?_⟩
      obtain hkept | ⟨gathered, addr, hs, hcloses, hnew, -⟩ := hshadow
      · exact absurd hkept hchanged
      · rw [takeTurn_activity] at hs
        obtain ⟨l, rfl⟩ := exists_link_of_isLink (isLink_of_closesRing hcloses)
        obtain ⟨id', g, a, hs', hread⟩ | ⟨id', start, g, c₀, hs', -⟩ := hat
        · cases hs.symm.trans hs'
          exact ⟨l, gathered, addr, hs, hread, hcloses, hnew⟩
        · cases hs.symm.trans hs'

/-- Settles O56: `RecordEffect` says when a record changes `ccs`; the rollback is the other way. -/
theorem ccsFlipsOnlyAtTogglingLink : Obligations.CcsFlipsOnlyAtTogglingLink := by
  refine ⟨fun i s t id c c' hexec hne hc hc' hchanged => ?_, fun s t id c c' hstep hne hc hc' hchanged => ?_⟩
  · obtain ⟨trb, htrb, hrec⟩ | ⟨-, heffect⟩ := exec_next hexec
    · obtain rfl | ⟨-, -, -, hccs⟩ := atRecord_consumer hrec hc hc'
      · exact absurd rfl hchanged
      · obtain hkept | ⟨start, gather, hs, ⟨hlink, htoggle, hcycle⟩ | hrolled⟩ := hccs
        · exact absurd hkept hchanged
        · obtain ⟨l, rfl⟩ := exists_link_of_isLink hlink
          have hi : i = .link l := (decodeTrb_of_trb? htrb).symm.trans (decodeTrb_toTrb_link l)
          rw [toggleOf_toTrb] at htoggle
          rw [LinkTrb.cycle_toTrb] at hcycle
          exact ⟨start, gather, hs, .inl ⟨l, hi, htoggle, hcycle⟩⟩
        · exact ⟨start, gather, hs, .inr hrolled⟩
    · rw [operationEffect_consumer heffect hne hc hc'] at hchanged
      exact absurd rfl hchanged
  · cases step_consumer hstep hne hc hc' with
    | index h =>
      rw [h] at hchanged
      exact absurd rfl hchanged
    | rollback start g hs h hres =>
      subst h
      exact ⟨start, some g, hs, .inr ⟨g, rfl, rfl, rfl, .inl hres⟩⟩
    | record trb hat heffect =>
      obtain hkept | ⟨start, gather, hs, ⟨hlink, htoggle, hcycle⟩ | hrolled⟩ := heffect.ccs
      · exact absurd hkept hchanged
      · rw [takeTurn_activity] at hs
        obtain ⟨l, rfl⟩ := exists_link_of_isLink hlink
        rw [toggleOf_toTrb] at htoggle
        rw [LinkTrb.cycle_toTrb] at hcycle
        obtain ⟨id', g, a, hs', -⟩ | ⟨id', start', g, c₀, hs', hring, hslot⟩ := hat
        · cases hs.symm.trans hs'
        · cases hs.symm.trans hs'
          cases hc.symm.trans hring
          exact ⟨start, gather, hs, .inl ⟨l, hslot, htoggle, hcycle⟩⟩
      · exact ⟨start, gather, (takeTurn_activity s) ▸ hs, .inr hrolled⟩

/-! ## An Event Ring that is there before and after -/

/-- What a request can do to the Event Ring `r` of the identifier `id`: the ring it leaves, by the instruction and its
result. -/
inductive EventEffect (id : InstId) (r : EventRing) : Instr → Option OpResult → EventRing → Prop where
  | kept (i : Instr) (res : Option OpResult) : EventEffect id r i res r
  | acknowledged (addr : Addr) (res : Option OpResult) :
      EventEffect id r (.erUpdateDequeuePointer id addr) res { r with dequeuePointer := some addr }
  | accepted (event : Trb) (res : Option OpResult) (d : Addr) (r' : EventRing) (hd : r.dequeuePointer = some d)
      (ha : advance r = some r') : EventEffect id r (.erEnqueue id event) res r'
  | full (event : Trb) (d : Addr) (r' : EventRing) (hd : r.dequeuePointer = some d) (hf : nextSlot r = some d)
      (ha : advance r = some r') :
      EventEffect id r (.erEnqueue id event) (some (.error (.eventRingFull event true)))
        { r' with dequeuePointer := none }

theorem operationEffect_event {s t : State} {i : Instr} {id : InstId} {r r' : EventRing} (h : OperationEffect s i t)
    (hr : findInst s.instances id = some (.event r)) (hr' : findInst t.instances id = some (.event r')) :
    EventEffect id r i t.result r' := by
  have unchanged (i : Instr) (res : Option OpResult) (h : findInst s.instances id = some (.event r')) :
      EventEffect id r i res r' := by
    cases hr.symm.trans h
    exact .kept ..
  cases h with
  | answer | refresh | walk | workItem | table | failed => exact unchanged _ _ hr'
  | create | reset =>
    obtain ⟨-, heq⟩ | hkept := findInst_putInst_cases hr'
    · cases heq
    · exact unchanged _ _ hkept
  | acknowledge id' addr r₀ hr₀ =>
    obtain ⟨rfl, heq⟩ | hkept := findInst_putInst_cases hr'
    · cases heq
      cases hr.symm.trans hr₀
      exact .acknowledged ..
    · exact unchanged _ _ hkept
  | accepted id' event r₀ r₁ d hr₀ hd hf ha =>
    obtain ⟨rfl, heq⟩ | hkept := findInst_putInst_cases hr'
    · cases heq
      cases hr.symm.trans hr₀
      exact .accepted event _ d _ hd ha
    · exact unchanged _ _ hkept
  | full id' event r₀ r₁ d hr₀ hd hf ha =>
    obtain ⟨rfl, heq⟩ | hkept := findInst_putInst_cases hr'
    · cases heq
      cases hr.symm.trans hr₀
      exact .full event d r₁ hd hf ha
    · exact unchanged _ _ hkept

/-- A record leaves every Event Ring as it was. -/
theorem atRecord_event {s t : State} {trb : Trb} {id : InstId} {r r' : EventRing} (h : atRecord trb s = .next t)
    (hr : findInst s.instances id = some (.event r)) (hr' : findInst t.instances id = some (.event r')) : r' = r := by
  have unchanged (h : findInst s.instances id = some (.event r')) : r' = r := by
    cases hr.symm.trans h
    rfl
  obtain ⟨m, a, res, rfl, -, rfl | ⟨id', c₀, c₁, -, -, rfl, -⟩⟩ := atRecord_next h
  · exact unchanged hr'
  · obtain ⟨-, heq⟩ | hkept := findInst_putInst_cases hr'
    · cases heq
    · exact unchanged hkept

theorem exec_event {i : Instr} {s t : State} {id : InstId} {r r' : EventRing} (h : exec i s = .next t)
    (hr : findInst s.instances id = some (.event r)) (hr' : findInst t.instances id = some (.event r')) :
    EventEffect id r i t.result r' := by
  obtain ⟨trb, -, hrec⟩ | ⟨-, heffect⟩ := exec_next h
  · rw [atRecord_event hrec hr hr']
    exact .kept ..
  · exact operationEffect_event heffect hr hr'

/-- A step changes an Event Ring by the request it takes, or replaces its table; the steps of an `er_create` of that
identifier, which make a new ring, aside. -/
theorem step_event {s t : State} {id : InstId} {r r' : EventRing} (h : step s = .next t)
    (hne : ∀ erdp erstba erstsz raw, s.activity ≠ .readTable id (.create erdp) erstba erstsz raw)
    (hr : findInst s.instances id = some (.event r)) (hr' : findInst t.instances id = some (.event r')) :
    (∃ i, requestTaken s i ∧ EventEffect id r i t.result r') ∨ ∃ table, r' = { r with segs := table } := by
  have hturn : findInst (takeTurn s).instances id = some (.event r) := by rwa [takeTurn_instances]
  have unchanged (h : findInst (takeTurn s).instances id = some (.event r')) :
      (∃ i, requestTaken s i ∧ EventEffect id r i t.result r') ∨ ∃ table, r' = { r with segs := table } := by
    cases hturn.symm.trans h
    exact .inr ⟨_, rfl⟩
  cases step_next h with
  | rest | refreshFails => exact unchanged hr'
  | request bs rest i t hidle hreq hdecode hi hexec heffect =>
    exact .inl ⟨i, requestTaken_of_takeTurn hidle hreq hdecode, operationEffect_event heffect hturn hr'⟩
  | record trb t hat hrec =>
    rw [atRecord_event hrec hturn hr']
    exact .inr ⟨_, rfl⟩
  | table id' purpose erstba erstsz raw t hs htable =>
    rw [takeTurn_activity] at hs
    cases htable with
    | fails | goesOn => exact unchanged hr'
    | creates erdp first rest hpurpose =>
      obtain ⟨rfl, -⟩ | hkept := findInst_putInst_cases hr'
      · exact absurd (hpurpose ▸ hs) (hne _ _ _ _)
      · exact unchanged hkept
    | updates r₀ table hpurpose hr₀ =>
      obtain ⟨rfl, heq⟩ | hkept := findInst_putInst_cases hr'
      · cases heq
        cases hturn.symm.trans hr₀
        exact .inr ⟨table, rfl⟩
      · exact unchanged hkept
  | lost id' start g c₀ t hs hring hindex hwalk =>
    obtain ⟨res, rfl⟩ | ⟨g', rfl, rfl⟩ := walkEmpty_next hwalk
    · exact unchanged hr'
    · obtain ⟨-, heq⟩ | hkept := findInst_putInst_cases hr'
      · cases heq
      · exact unchanged hkept

/-- `pcs` flips where the position wraps from the last segment to segment 0, and nowhere else (R237). -/
theorem advance_pcs_flips {r r' : EventRing} (h : advance r = some r') (hpcs : r'.pcs ≠ r.pcs) :
    r.remaining ≤ 1 ∧ r.segs.length ≤ r.segIndex + 1 ∧ r'.segIndex = 0 := by
  unfold advance at h
  split at h
  case isFalse => cases h; exact absurd rfl hpcs
  case isTrue hrem =>
    unfold enterSegment at h
    split at h <;> cases h
    by_cases hwrap : r.segs.length ≤ r.segIndex + 1
    · exact ⟨by omega, hwrap, nextIndex_wraps hwrap⟩
    · exact absurd (by rw [decide_eq_false hwrap, pcsAfterSegment, if_neg Bool.false_ne_true]) hpcs

theorem eventEffect_pcs {id : InstId} {r r' : EventRing} {i : Instr} {res : Option OpResult}
    (h : EventEffect id r i res r') (hpcs : r'.pcs ≠ r.pcs) :
    (∃ event, i = .erEnqueue id event) ∧ r.remaining ≤ 1 ∧ r.segs.length ≤ r.segIndex + 1 ∧ r'.segIndex = 0 := by
  cases h with
  | kept | acknowledged => exact absurd rfl hpcs
  | accepted event res d r' hd ha => exact ⟨⟨event, rfl⟩, advance_pcs_flips ha hpcs⟩
  | full event d r₁ hd hf ha => exact ⟨⟨event, rfl⟩, advance_pcs_flips (r' := r₁) ha hpcs⟩

/-- Settles O57: of all that happens to an Event Ring only the advance of an enqueue touches `pcs`. -/
theorem pcsFlipsOnlyAtWrap : Obligations.PcsFlipsOnlyAtWrap := by
  refine ⟨fun i s t id r r' hexec hr hr' hpcs => eventEffect_pcs (exec_event hexec hr hr') hpcs,
    fun s t id r r' hstep hne hr hr' hpcs => ?_⟩
  obtain ⟨i, htaken, heffect⟩ | ⟨table, rfl⟩ := step_event hstep hne hr hr'
  · obtain ⟨⟨event, rfl⟩, hwrap⟩ := eventEffect_pcs heffect hpcs
    exact ⟨⟨event, htaken⟩, hwrap⟩
  · exact absurd rfl hpcs

theorem eventEffect_becomesKnown {id : InstId} {r r' : EventRing} {i : Instr} {res : Option OpResult}
    (h : EventEffect id r i res r') (hunknown : r.dequeuePointer = none) (hknown : r'.dequeuePointer ≠ none) :
    ∃ addr, i = .erUpdateDequeuePointer id addr ∧ r'.dequeuePointer = some addr := by
  cases h with
  | kept => exact absurd hunknown hknown
  | acknowledged addr => exact ⟨addr, rfl, rfl⟩
  | accepted event res d r' hd ha => cases hunknown.symm.trans hd
  | full event d r' hd hf ha => exact absurd rfl hknown

theorem eventEffect_becomesUnknown {id : InstId} {r r' : EventRing} {i : Instr} {res : Option OpResult} {d : Addr}
    (h : EventEffect id r i res r') (hknown : r.dequeuePointer = some d) (hunknown : r'.dequeuePointer = none) :
    ∃ event, i = .erEnqueue id event ∧ nextSlot r = some d ∧ res = some (.error (.eventRingFull event true)) := by
  cases h with
  | kept => cases hunknown.symm.trans hknown
  | acknowledged addr => cases hunknown
  | accepted event res d' r' hd ha => cases hunknown.symm.trans ((advance_kept ha).2.trans hknown)
  | full event d' r' hd hf ha =>
    cases hknown.symm.trans hd
    exact ⟨event, rfl, hf, rfl⟩

/-- Settles O58: the two effects that change the tag of the dequeue pointer are the acknowledgement and the full case. -/
theorem onlyAcknowledgeMakesPointerKnown : Obligations.OnlyAcknowledgeMakesPointerKnown := by
  refine ⟨fun i s t id r r' hexec hr hr' => ?_, fun s t id r r' hstep hne hr hr' => ?_⟩
  · have heffect := exec_event hexec hr hr'
    exact ⟨eventEffect_becomesKnown heffect, fun d => eventEffect_becomesUnknown heffect⟩
  · obtain ⟨i, htaken, heffect⟩ | ⟨table, rfl⟩ := step_event hstep hne hr hr'
    · refine ⟨fun hunknown hknown => ?_, fun d hknown hunknown => ?_⟩
      · obtain ⟨addr, rfl, haddr⟩ := eventEffect_becomesKnown heffect hunknown hknown
        exact ⟨addr, htaken, haddr⟩
      · obtain ⟨event, rfl, hfull⟩ := eventEffect_becomesUnknown heffect hknown hunknown
        exact ⟨event, htaken, hfull⟩
    · exact ⟨fun hunknown hknown => absurd hunknown hknown,
        fun d hknown hunknown => by cases hunknown.symm.trans hknown⟩

end Sys2Proof

/-! # A walk at a record (spec/41_consumer_ring.md sections 4 to 6, spec/20_memory.md R85) -/

namespace Sys2Proof
open Machine

/-! ## What the record at the index does to the walk, case by case -/

/-- Everything a record can do to the walk that is at it, each case under its condition: the state it leaves. -/
inductive WalkEffect (s : State) (id : InstId) (start : Nat) (c : ConsumerRing) (trb : Trb) :
    Option Gather → State → Prop where
  /-- not available: `cr_dequeue_trb` returns `None` (R189) -/
  | noEntry (h : trb.cycle ≠ c.ccs) :
      WalkEffect s id start c trb none (s.with3 s.instances .idle (some (.ok (.trb none))))
  /-- not available and nothing gathered (R194) -/
  | noWork (g : Gather) (h : trb.cycle ≠ c.ccs) (hitem : g.item = []) :
      WalkEffect s id start c trb (some g) (s.with3 s.instances .idle (some (.ok .noWork)))
  /-- not available, or a full circuit, with something gathered (R195, R196) -/
  | incomplete (g : Gather) (hitem : g.item ≠ []) : WalkEffect s id start c trb (some g)
      (s.with3 (putInst s.instances id (.consumer (rollback c g))) .idle (some (.error .eIncomplete)))
  /-- a full circuit of `cr_dequeue_trb` (R191) -/
  | circuit : WalkEffect s id start c trb none
      (s.with3 (putInst s.instances id (.consumer (passLink c (toggleOf trb)))) .idle (some (.ok (.trb none))))
  /-- a full circuit with nothing gathered (R191, R194) -/
  | circuitNoWork (g : Gather) : WalkEffect s id start c trb (some g)
      (s.with3 (putInst s.instances id (.consumer (passLink c (toggleOf trb)))) .idle (some (.ok .noWork)))
  /-- a Link is passed (R190) -/
  | passes (gather : Option Gather) (h : (c.dequeueIndex + 1) % c.shadow.length ≠ start) :
      WalkEffect s id start c trb gather
        (s.with3 (putInst s.instances id (.consumer (passLink c (toggleOf trb))))
          (.dequeue id start (countPassed gather)) none)
  /-- a data record is returned (R189) -/
  | returned : WalkEffect s id start c trb none
      (s.with3 (putInst s.instances id (.consumer (advanceIndex c))) .idle (some (.ok (.trb (some trb)))))
  /-- a chained record after which every slot has been passed (R197) -/
  | cyclic (g : Gather) : WalkEffect s id start c trb (some g)
      (s.with3 (putInst s.instances id (.consumer (rollback c g))) .idle (some (.error .eCyclicIncomplete)))
  /-- a chained record is gathered (R193) -/
  | chained (g : Gather) (hlink : trb.isLink = false) (hchain : chainOf trb = true)
      (hmore : g.passed + 1 < c.shadow.length) : WalkEffect s id start c trb (some g)
      (s.with3 (putInst s.instances id (.consumer (advanceIndex c)))
        (.dequeue id (advanceIndex c).dequeueIndex
          (some { g with item := g.item ++ [trb], passed := g.passed + 1 })) none)
  /-- a record without chain completes the work item (R193) -/
  | complete (g : Gather) (hlink : trb.isLink = false) (hchain : chainOf trb = false) :
      WalkEffect s id start c trb (some g)
        (s.with3 (putInst s.instances id (.consumer (advanceIndex c))) .idle
          (some (itemResult c.kind (g.item ++ [trb]))))

/-- The rollback of a ring a Link was passed on is the rollback of the ring. -/
theorem rollback_passLink (c : ConsumerRing) (toggle : Bool) (g : Gather) :
    rollback (passLink c toggle) g = rollback c g := rfl

/-- An inner walk that finds nothing with something gathered rolls the ring back, whatever ring was stored before. -/
theorem walkEmpty_stored_incomplete (s : State) (id : InstId) (c : ConsumerRing) {g : Gather} (h : g.item ≠ []) :
    walkEmpty (putConsumer s id c) id c (some g)
      = .next (s.with3 (putInst s.instances id (.consumer (rollback c g))) .idle (some (.error .eIncomplete))) := by
  rw [walkEmpty_incomplete _ id c h, putConsumer_instances, putInst_putInst]
  rfl

/-- At a record a walk always answers a next state, in one of the ways of `WalkEffect`. -/
theorem atRecord_walk {s : State} {id : InstId} {start : Nat} {gather : Option Gather} {c : ConsumerRing} (trb : Trb)
    (hs : s.activity = .dequeue id start gather) (hring : findInst s.instances id = some (.consumer c)) :
    ∃ u, atRecord trb s = .next u ∧ WalkEffect s id start c trb gather u := by
  by_cases hcycle : trb.cycle = c.ccs
  case neg =>
    rw [atRecord_unavailable hs hring hcycle]
    cases gather with
    | none => exact ⟨_, walkEmpty_none .., .noEntry hcycle⟩
    | some g =>
      by_cases hitem : g.item = []
      · exact ⟨_, walkEmpty_noWork s id c hitem, .noWork g hcycle hitem⟩
      · exact ⟨_, walkEmpty_incomplete s id c hitem, .incomplete g hitem⟩
  case pos =>
  cases hlink : trb.isLink with
  | true =>
    rw [atRecord_walk_link hs hring hcycle hlink]
    by_cases hround : (c.dequeueIndex + 1) % c.shadow.length = start
    · rw [if_pos hround]
      cases gather with
      | none => exact ⟨_, walkEmpty_none .., .circuit⟩
      | some g =>
        by_cases hitem : g.item = []
        · exact ⟨_, walkEmpty_noWork _ id _ hitem, .circuitNoWork g⟩
        · exact ⟨_, walkEmpty_stored_incomplete s id _ hitem,
            rollback_passLink c (toggleOf trb) g ▸ .incomplete g hitem⟩
    · rw [if_neg hround]
      exact ⟨_, rfl, .passes gather hround⟩
  | false =>
    cases gather with
    | none =>
      rw [atRecord_walk_data hs hring hcycle hlink, walkReturns_trb]
      exact ⟨_, rfl, .returned⟩
    | some g =>
      cases hchain : chainOf trb with
      | false => exact ⟨_, atRecord_item_last hs hring hcycle hlink hchain, .complete g hlink hchain⟩
      | true =>
        rw [atRecord_item_chained hs hring hcycle hlink hchain]
        by_cases hfull : c.shadow.length ≤ g.passed + 1
        · rw [if_pos hfull]
          exact ⟨_, rfl, .cyclic g⟩
        · rw [if_neg hfull]
          exact ⟨_, rfl, .chained g hlink hchain (Nat.not_le.1 hfull)⟩

/-! ## A walk does not see what the guest stores (R85) -/

/-- Where one outcome is a next state the other is one too, with the same rings, operation in progress and result. -/
def sameBlockOutcome (x y : Result) : Prop :=
  ∀ t, x = .next t → ∃ u, y = .next u ∧ u.instances = t.instances ∧ u.activity = t.activity ∧ u.result = t.result

theorem sameBlockOutcome_deliver {s u : State} (r : OpResult) (h : u.instances = s.instances) :
    sameBlockOutcome (deliver s r) (deliver u r) := by
  rintro t ht
  cases ht
  exact ⟨_, rfl, h, rfl, rfl⟩

theorem sameBlockOutcome_continueWith {s u : State} (a : Activity) (h : u.instances = s.instances) :
    sameBlockOutcome (continueWith s a) (continueWith u a) := by
  rintro t ht
  cases ht
  exact ⟨_, rfl, h, rfl, rfl⟩

theorem putConsumer_instances_congr {s u : State} (id : InstId) (c : ConsumerRing) (h : u.instances = s.instances) :
    (putConsumer u id c).instances = (putConsumer s id c).instances := by
  rw [putConsumer_instances, putConsumer_instances, h]

theorem sameBlockOutcome_walkEmpty {s u : State} (id : InstId) (c : ConsumerRing) (gather : Option Gather)
    (h : u.instances = s.instances) : sameBlockOutcome (walkEmpty s id c gather) (walkEmpty u id c gather) := by
  unfold walkEmpty
  split
  · exact sameBlockOutcome_deliver _ h
  · split
    · exact sameBlockOutcome_deliver _ h
    · exact sameBlockOutcome_deliver _ (putConsumer_instances_congr id _ h)

theorem sameBlockOutcome_completeItem {s u : State} (kind : RingKind) (item : List Trb)
    (h : u.instances = s.instances) :
    sameBlockOutcome (completeItem s kind item) (completeItem u kind item) := by
  unfold completeItem
  split
  · split
    · exact sameBlockOutcome_deliver _ h
    · exact sameBlockOutcome_deliver _ h
  · exact sameBlockOutcome_deliver _ h

theorem sameBlockOutcome_walkReturns {s u : State} (id : InstId) (c : ConsumerRing) (gather : Option Gather)
    (trb : Trb)
    (chain : Bool) (h : u.instances = s.instances) :
    sameBlockOutcome (walkReturns s id c gather trb chain) (walkReturns u id c gather trb chain) := by
  unfold walkReturns
  split
  · exact sameBlockOutcome_deliver _ h
  · split
    · split
      · exact sameBlockOutcome_deliver _ (putConsumer_instances_congr id _ h)
      · exact sameBlockOutcome_continueWith _ h
    · exact sameBlockOutcome_completeItem _ _ h

theorem sameBlockOutcome_atRecord {s u : State} {id : InstId} {start : Nat} {gather : Option Gather} {c : ConsumerRing}
    (trb : Trb) (hs : s.activity = .dequeue id start gather) (hu : u.activity = .dequeue id start gather)
    (hring : findInst s.instances id = some (.consumer c)) (h : u.instances = s.instances) :
    sameBlockOutcome (atRecord trb s) (atRecord trb u) := by
  have hring' : findInst u.instances id = some (.consumer c) := h ▸ hring
  by_cases hcycle : trb.cycle = c.ccs
  case neg =>
    rw [atRecord_unavailable hs hring hcycle, atRecord_unavailable hu hring' hcycle]
    exact sameBlockOutcome_walkEmpty id c gather h
  case pos =>
  cases hlink : trb.isLink with
  | false =>
    rw [atRecord_walk_data hs hring hcycle hlink, atRecord_walk_data hu hring' hcycle hlink]
    exact sameBlockOutcome_walkReturns id _ gather trb _ (putConsumer_instances_congr id _ h)
  | true =>
    rw [atRecord_walk_link hs hring hcycle hlink, atRecord_walk_link hu hring' hcycle hlink]
    split
    · exact sameBlockOutcome_walkEmpty id _ gather (putConsumer_instances_congr id _ h)
    · exact sameBlockOutcome_continueWith (s := putConsumer s id _) (u := putConsumer u id _) _
        (putConsumer_instances_congr id _ h)

/-- A step of a walk whose index is out of range (in states no run reaches) is the empty end of the walk. -/
theorem step_walk_outOfRange {s : State} {id : InstId} {start : Nat} {gather : Option Gather} {c : ConsumerRing}
    (hs : s.activity = .dequeue id start gather) (hring : findInst s.instances id = some (.consumer c))
    (hslot : c.shadow[c.dequeueIndex]? = none) : step s = walkEmpty (takeTurn s) id c gather := by
  simp [step, fetch, hs, fetchFromShadow, hring, hslot]

/-- A step of a walk that answers a next state finds its ring. -/
theorem ring_of_step_walk {s t : State} {id : InstId} {start : Nat} {gather : Option Gather}
    (hs : s.activity = .dequeue id start gather) (h : step s = .next t) :
    ∃ c, findInst s.instances id = some (.consumer c) := by
  simp only [step, fetch, takeTurn_activity, hs, fetchFromShadow, takeTurn_instances] at h
  cases hring : findInst s.instances id with
  | none => simp [hring] at h
  | some q =>
    cases q with
    | event r => simp [hring] at h
    | consumer c => exact ⟨c, rfl⟩

/-- Settles O59: a step of a walk reads its ring and nothing of the environment. -/
theorem walkDoesNotSeeGuestStores : Obligations.WalkDoesNotSeeGuestStores := by
  intro s id start gather mem turns t hs hstep
  obtain ⟨c, hring⟩ := ring_of_step_walk hs hstep
  let u : State := { s with mem := mem, turns := turns }
  have hsame : (takeTurn u).instances = (takeTurn s).instances := by rw [takeTurn_instances, takeTurn_instances]
  have houtcome : sameBlockOutcome (step s) (step u) := by
    cases hslot : c.shadow[c.dequeueIndex]? with
    | none =>
      rw [step_walk_outOfRange hs hring hslot, step_walk_outOfRange (s := u) hs hring hslot]
      exact sameBlockOutcome_walkEmpty id c gather hsame
    | some trb =>
      rw [step_walk hs hring hslot, step_walk (s := u) hs hring hslot]
      exact sameBlockOutcome_atRecord trb (by rwa [takeTurn_activity]) (by rwa [takeTurn_activity])
        (by rwa [takeTurn_instances]) hsame
  exact houtcome t hstep

end Sys2Proof

/-! # The invariant and the work left (spec/10_state.md, spec/60_exceptions.md R301) -/

namespace Sys2Proof
open Machine

/-! ## The invariant under the updates a step is made of -/

/-- Whether the operation in progress is in range depends on the rings and the parameters alone. -/
theorem activity_ok_congr {s u : State} {a : Activity} (hinst : u.instances = s.instances)
    (hparams : u.params = s.params)
    (h : a.ok s) : a.ok u := by
  unfold Activity.ok at h ⊢
  rw [hinst, hparams]
  exact h

theorem inv_takeTurn {s : State} (h : Inv s) : Inv (takeTurn s) where
  bound := by rw [takeTurn_params]; exact h.bound
  memory := by
    unfold takeTurn
    split
    · exact h.memory
    · exact pokes_wf h.memory _
  keys := by rw [takeTurn_instances]; exact h.keys
  instances := by rw [takeTurn_instances, takeTurn_params]; exact h.instances
  activity := by
    rw [takeTurn_activity]
    exact activity_ok_congr (takeTurn_instances s) (takeTurn_params s) h.activity

/-- Taking a request off the port keeps the invariant. -/
theorem inv_requests {s : State} (h : Inv s) (rest : List (List Byte)) : Inv { s with requests := rest } :=
  ⟨h.bound, h.memory, h.keys, h.instances, activity_ok_congr rfl rfl h.activity⟩

/-- A step that stores no ring keeps the invariant if its new activity is in range. -/
theorem inv_with3 {s : State} (h : Inv s) {a : Activity} {r : Option OpResult} (ha : a.ok s) :
    Inv (s.with3 s.instances a r) :=
  ⟨h.bound, h.memory, h.keys, h.instances, activity_ok_congr rfl rfl ha⟩

/-- A step that stores a ring keeps the invariant if the ring and the new activity are in range. -/
theorem inv_with3_putInst {s : State} (h : Inv s) {id : InstId} {q : RingInstance} (hq : q.ok s.params) {a : Activity}
    {r : Option OpResult} (ha : a.ok (s.with3 (putInst s.instances id q) a r)) :
    Inv (s.with3 (putInst s.instances id q) a r) where
  bound := h.bound
  memory := h.memory
  keys := putInst_wf h.keys id q
  instances := fun ⟨k, x⟩ hp => by
    obtain heq | hold := find_of_mem_putInst hp
    · cases heq
      exact hq
    · exact h.instances _ hold
  activity := ha

/-- Memory in canonical form after an access keeps the invariant. -/
theorem inv_of_mem {s u : State} (h : Inv s) (hparams : u.params = s.params) (hinst : u.instances = s.instances)
    (hactivity : u.activity = s.activity) (hmem : u.mem.wf) : Inv u where
  bound := hparams ▸ h.bound
  memory := hmem
  keys := hinst ▸ h.keys
  instances := by rw [hinst, hparams]; exact h.instances
  activity := by
    rw [hactivity]
    exact activity_ok_congr hinst hparams h.activity

theorem inv_afterWrite {s : State} (h : Inv s) (a : Addr) (t : Trb) : Inv (afterWrite s a t) :=
  inv_of_mem h (by simp) (by simp) (by simp) (by rw [afterWrite_mem]; exact writeBytes_wf h.memory a _)

theorem inv_afterFailedWrite {s : State} (h : Inv s) (a : Addr) : Inv (afterFailedWrite s a) :=
  inv_of_mem h (by simp) (by simp) (by simp) (by rw [afterFailedWrite_mem]; exact scrambleBytes_wf h.memory a _ _)

/-! ## The rings -/

theorem consumer_ok {s : State} (h : Inv s) {id : InstId} {c : ConsumerRing}
    (hring : findInst s.instances id = some (.consumer c)) : c.ok s.params := h.instances _ (mem_of_findInst hring)

theorem event_ok {s : State} (h : Inv s) {id : InstId} {r : EventRing}
    (hring : findInst s.instances id = some (.event r)) : r.ok := h.instances _ (mem_of_findInst hring)

/-- A ring whose index was set to a slot of its shadow copy is in range. -/
theorem consumer_ok_of_slot {p : Params} (hbound : p.maxRingTrbs ≤ 2 ^ 60) {c c' : ConsumerRing} (h : c.ok p)
    (hshadow : c'.shadow = c.shadow) (hbase : c'.base = c.base)
    (hslot : c'.dequeueIndex < c.shadow.length) : c'.ok p := by
  obtain ⟨-, hlength, hclosed⟩ := h
  refine ⟨by omega, ?_, ?_⟩
  · rwa [hshadow]
  · rwa [hshadow, hbase]

theorem resetIndex_lt (base pointer : Addr) : resetIndex base pointer < 2 ^ 60 := by
  have := (pointer - base).isLt
  unfold resetIndex
  omega

theorem newConsumer_ok (p : Params) (kind : RingKind) (base : Addr) : (newConsumer kind base).ok p :=
  ⟨Nat.two_pow_pos 60, Nat.zero_le _, .inl rfl⟩

/-- A ring with a validated table is in range if its count of remaining slots is. -/
theorem event_ok_of_table {r : EventRing} (hne : r.segs ≠ []) (hvalid : firstBadFrom 0 r.segs = none)
    (hlow : 1 ≤ r.remaining) (hhigh : r.remaining ≤ Config.segMax) : r.ok :=
  ⟨hne, capValid_of_firstBadFrom hvalid, hlow, hhigh⟩

theorem newEvent_ok {first : Segment} {rest : List Segment} (erdp : Addr)
    (hvalid : firstBadFrom 0 (first :: rest) = none) : (newEvent (first :: rest) first erdp).ok := by
  obtain ⟨hlow, hhigh⟩ := capValid_iff.1 (capValid_of_firstBadFrom hvalid first (List.mem_cons_self ..))
  exact event_ok_of_table (List.cons_ne_nil _ _) hvalid ((by decide : 1 ≤ 16).trans hlow) hhigh

/-- A gathered list of records that do not close the ring, with one that does, is a closed shadow copy (R185(c)). -/
theorem closedBy_append {base : Addr} {l : List Trb} {t : Trb} (hl : l.all (fun t => !closesRing base t) = true)
    (ht : closesRing base t = true) : closedBy base (l ++ [t]) = true := by
  simp [closedBy, hl, ht]

/-! ## A request keeps the invariant -/

theorem startGather_ok {c : ConsumerRing} (h : c.dequeueIndex < c.shadow.length) :
    (startGather c).ok c c.dequeueIndex := by
  have hmore : c.shadow.length < 2 * c.shadow.length := by omega
  exact ⟨h, by simp [startGather], by simp [startGather], by simpa [startGather] using hmore⟩

theorem operationEffect_inv {s t : State} {i : Instr} (h : Inv s) (heffect : OperationEffect s i t) : Inv t := by
  cases heffect with
  | answer i r => exact inv_with3 h (a := .idle) trivial
  | create id kind base =>
    exact inv_with3_putInst h (q := .consumer (newConsumer kind base)) (newConsumer_ok _ kind base) trivial
  | refresh id c hc => exact inv_with3 h (a := .refresh id [] c.base) ⟨c, hc, Nat.zero_le _, rfl⟩
  | reset id pointer c hc =>
    obtain ⟨-, hlength, hclosed⟩ := consumer_ok h hc
    exact inv_with3_putInst h (q := .consumer { c with dequeueIndex := resetIndex c.base pointer })
      ⟨resetIndex_lt c.base pointer, hlength, hclosed⟩ trivial
  | walk id c hc hi =>
    exact inv_with3 h (a := .dequeue id c.dequeueIndex none) ⟨c, hc, hi, hi, fun g hg => by cases hg⟩
  | workItem id c hc hi =>
    exact inv_with3 h (a := .dequeue id c.dequeueIndex (some (startGather c)))
      ⟨c, hc, hi, hi, fun g hg => by cases hg; exact startGather_ok hi⟩
  | table i id purpose erstba erstsz hn hi hp =>
    exact inv_with3 h (a := .readTable id purpose erstba erstsz []) ⟨hn, hp⟩
  | acknowledge id addr r hr =>
    have hr : r.ok := event_ok h hr
    exact inv_with3_putInst h (q := .event { r with dequeuePointer := some addr }) hr trivial
  | accepted id event r r' d hr hd hf ha =>
    have hw := inv_afterWrite h r.enqueuePointer (stamp event r.pcs)
    rw [← afterWrite_instances s r.enqueuePointer (stamp event r.pcs)]
    exact inv_with3_putInst hw (q := .event r') (advance_ok (event_ok h hr) ha) trivial
  | full id event r r' d hr hd hf ha =>
    have hw := inv_afterWrite h r.enqueuePointer (stamp erfTrb r.pcs)
    have hr' : r'.ok := advance_ok (event_ok h hr) ha
    rw [← afterWrite_instances s r.enqueuePointer (stamp erfTrb r.pcs)]
    exact inv_with3_putInst hw (q := .event { r' with dequeuePointer := none }) hr' trivial
  | failed id event r hr =>
    have hw := inv_afterFailedWrite h r.enqueuePointer
    rw [← afterFailedWrite_instances s r.enqueuePointer]
    exact inv_with3 hw (a := .idle) trivial

/-! ## A step of an operation in progress: the invariant kept, less work left, a result at the end -/

/-- What a step of an operation in progress achieves. -/
structure Progress (s t : State) : Prop where
  inv : Inv t
  work : workLeft t < workLeft s
  answered : t.activity = .idle → ∃ r, t.result = some r

theorem workLeft_idle {s : State} (h : s.activity = .idle) : workLeft s = 0 := by rw [workLeft, h]

theorem workLeft_refresh {s : State} {id : InstId} {gathered : List Trb} {addr : Addr}
    (h : s.activity = .refresh id gathered addr) : workLeft s = s.params.maxRingTrbs - gathered.length + 1 := by
  rw [workLeft, h]

theorem workLeft_readTable {s : State} {id : InstId} {purpose : TablePurpose} {erstba : Addr} {erstsz : Nat}
    {raw : List Segment} (h : s.activity = .readTable id purpose erstba erstsz raw) :
    workLeft s = erstsz - raw.length := by
  rw [workLeft, h]

theorem workLeft_walk {s : State} {id : InstId} {start : Nat} {c : ConsumerRing}
    (h : s.activity = .dequeue id start none) (hring : findInst s.instances id = some (.consumer c)) :
    workLeft s = slotsLeft c.shadow.length start c.dequeueIndex := by
  rw [workLeft, h]
  simp [hring]

theorem workLeft_item {s : State} {id : InstId} {start : Nat} {g : Gather} {c : ConsumerRing}
    (h : s.activity = .dequeue id start (some g)) (hring : findInst s.instances id = some (.consumer c)) :
    workLeft s = 2 * c.shadow.length - g.passed := by
  rw [workLeft, h]
  simp [hring]

theorem workLeft_takeTurn (s : State) : workLeft (takeTurn s) = workLeft s := by
  simp [workLeft]

/-- An operation in progress has a step to come. -/
theorem workLeft_pos {s : State} (h : Inv s) (hbusy : s.activity ≠ .idle) : 0 < workLeft s := by
  have hact := h.activity
  cases hs : s.activity with
  | idle => exact absurd hs hbusy
  | refresh id gathered addr => rw [workLeft_refresh hs]; omega
  | readTable id purpose erstba erstsz raw =>
    rw [hs] at hact
    obtain ⟨hraw, -⟩ := hact
    rw [workLeft_readTable hs]
    omega
  | dequeue id start gather =>
    rw [hs] at hact
    obtain ⟨c, hring, hindex, hstart, hgather⟩ := hact
    cases gather with
    | none => rw [workLeft_walk hs hring]; exact slotsLeft_pos hstart hindex
    | some g =>
      obtain ⟨-, -, -, hpassed⟩ := hgather g rfl
      rw [workLeft_item hs hring]
      omega

/-- The step that ends the operation and stores no ring. -/
theorem progress_answer {s : State} (h : Inv s) (hbusy : s.activity ≠ .idle) (r : OpResult) :
    Progress s (s.with3 s.instances .idle (some r)) where
  inv := inv_with3 h (a := .idle) trivial
  work := by rw [workLeft_idle rfl]; exact workLeft_pos h hbusy
  answered := fun _ => ⟨r, rfl⟩

/-- The step that ends the operation and stores a ring. -/
theorem progress_store {s : State} (h : Inv s) (hbusy : s.activity ≠ .idle) (id : InstId) {q : RingInstance}
    (hq : q.ok s.params) (r : OpResult) : Progress s (s.with3 (putInst s.instances id q) .idle (some r)) where
  inv := inv_with3_putInst h hq trivial
  work := by rw [workLeft_idle rfl]; exact workLeft_pos h hbusy
  answered := fun _ => ⟨r, rfl⟩

theorem progress_of_takeTurn {s t : State} (h : Progress (takeTurn s) t) : Progress s t where
  inv := h.inv
  work := workLeft_takeTurn s ▸ h.work
  answered := h.answered

/-! ### `read_table` -/

theorem finishTable_isNext {s : State} {id : InstId} {purpose : TablePurpose} {table : List Segment} (hne : table ≠ [])
    (hring : purpose = .update → ∃ r, findInst s.instances id = some (.event r)) :
    ∃ t, finishTable s id purpose table = .next t := by
  cases hvalid : firstBadFrom 0 table with
  | some k => exact ⟨_, finishTable_invalid id purpose hvalid⟩
  | none =>
    cases purpose with
    | create erdp =>
      obtain ⟨first, rest, rfl⟩ := List.exists_cons_of_ne_nil hne
      exact ⟨_, finishTable_create id erdp hvalid rfl⟩
    | update =>
      obtain ⟨r, hr⟩ := hring rfl
      exact ⟨_, finishTable_update hvalid hr⟩

theorem tableStep_isNext {s : State} {id : InstId} {purpose : TablePurpose} {erstba : Addr} {erstsz : Nat}
    {raw : List Segment} (hraw : raw.length < erstsz)
    (hring : purpose = .update → ∃ r, findInst s.instances id = some (.event r)) :
    ∃ t, tableStep s id purpose erstba erstsz raw = .next t := by
  cases hread : memRead s (descriptorAddr erstba raw.length) with
  | none => exact ⟨_, tableStep_readFails id purpose erstsz hread⟩
  | some bytes =>
    by_cases hmore : raw.length + 1 < erstsz
    · exact ⟨_, tableStep_goesOn id purpose hread hmore⟩
    · rw [tableStep_last id purpose hread (by omega)]
      exact finishTable_isNext (by simp) hring

theorem tableEffect_progress {s t : State} {id : InstId} {purpose : TablePurpose} {erstba : Addr} {erstsz : Nat}
    {raw : List Segment} (h : Inv s) (hs : s.activity = .readTable id purpose erstba erstsz raw)
    (heffect : TableEffect s id purpose erstba erstsz raw t) : Progress s t := by
  have hbusy : s.activity ≠ .idle := by simp [hs]
  cases heffect with
  | fails e => exact progress_answer h hbusy _
  | creates erdp first rest hp hvalid =>
    exact progress_store h hbusy id (q := .event _) (newEvent_ok erdp hvalid) _
  | updates r table hp hr hne hvalid =>
    obtain ⟨-, -, hlow, hhigh⟩ := event_ok h hr
    exact progress_store h hbusy id (q := .event { r with segs := table }) (event_ok_of_table hne hvalid hlow hhigh) _
  | goesOn g hmore =>
    have hact := h.activity
    rw [hs] at hact
    obtain ⟨-, hring⟩ := hact
    refine ⟨inv_with3 h (a := .readTable id purpose erstba erstsz (raw ++ [g])) ⟨by simpa using hmore, hring⟩, ?_,
      fun hidle => by cases hidle⟩
    rw [workLeft_readTable hs, workLeft_readTable rfl, List.length_append, List.length_singleton]
    omega

/-! ### `cr_update_from_guest` -/

theorem closesRing_of_data {base : Addr} {t : Trb} (h : t.isLink = false) : closesRing base t = false := by
  simp [closesRing, h]

/-- A refresh that goes on has gathered one more record that does not close the ring. -/
theorem progress_refresh {s : State} {id : InstId} {gathered : List Trb} {addr : Addr} (h : Inv s)
    (hs : s.activity = .refresh id gathered addr) (hroom : gathered.length < s.params.maxRingTrbs) {c : ConsumerRing}
    (hring : findInst s.instances id = some (.consumer c)) {trb : Trb} (hopen : closesRing c.base trb = false)
    (addr' : Addr) : Progress s (s.with3 s.instances (.refresh id (gathered ++ [trb]) addr') none) := by
  have hact := h.activity
  rw [hs] at hact
  obtain ⟨c₀, hc₀, -, hgathered⟩ := hact
  cases hring.symm.trans hc₀
  refine ⟨inv_with3 h (a := .refresh id (gathered ++ [trb]) addr')
    ⟨c, hring, by simpa using hroom, by simpa [hopen] using hgathered⟩, ?_, fun hidle => by cases hidle⟩
  rw [workLeft_refresh hs, workLeft_refresh rfl, List.length_append, List.length_singleton, with3_params]
  omega

/-- At a record a refresh always answers a next state, and makes progress. -/
theorem atRecord_refresh_progress {s : State} {id : InstId} {gathered : List Trb} {addr : Addr} (h : Inv s)
    (hs : s.activity = .refresh id gathered addr) (hroom : gathered.length < s.params.maxRingTrbs) (trb : Trb) :
    ∃ t, atRecord trb s = .next t ∧ Progress s t := by
  have hact := h.activity
  rw [hs] at hact
  obtain ⟨c, hring, -, hgathered⟩ := hact
  cases hlink : trb.isLink with
  | false =>
    exact ⟨_, atRecord_refresh_data hlink hs, progress_refresh h hs hroom hring (closesRing_of_data hlink) _⟩
  | true =>
    rw [atRecord_refresh_link hlink hs hring]
    by_cases htarget : linkTarget trb.parameter = c.base
    · rw [if_pos htarget]
      have hclosed : closedBy c.base (gathered ++ [trb]) = true :=
        closedBy_append hgathered (by simp [closesRing, hlink, htarget])
      obtain ⟨hindex, -⟩ := consumer_ok h hring
      exact ⟨_, rfl, progress_store h (by simp [hs]) id (q := .consumer { c with shadow := gathered ++ [trb] })
        ⟨hindex, by simpa using hroom, .inr hclosed⟩ _⟩
    · rw [if_neg htarget]
      exact ⟨_, rfl, progress_refresh h hs hroom hring (by simp [closesRing, htarget]) _⟩

theorem step_refresh_progress {s : State} {id : InstId} {gathered : List Trb} {addr : Addr} (h : Inv s)
    (hs : s.activity = .refresh id gathered addr) : ∃ t, step s = .next t ∧ Progress s t := by
  have hturn := inv_takeTurn h
  have hsTurn : (takeTurn s).activity = .refresh id gathered addr := by rw [takeTurn_activity, hs]
  have ends (e : OpError) : Progress s ((takeTurn s).with3 s.instances .idle (some (.error e))) :=
    progress_of_takeTurn (takeTurn_instances s ▸ progress_answer hturn (by simp [hs]) _)
  by_cases hroom : gathered.length < s.params.maxRingTrbs
  case neg => exact ⟨_, step_refresh_tooLarge hs (Nat.not_lt.1 hroom), ends _⟩
  case pos =>
  cases hread : readTrb (takeTurn s) addr with
  | none => exact ⟨_, step_refresh_readFails hs hroom hread, ends _⟩
  | some trb =>
    rw [step_refresh hs hroom hread]
    obtain ⟨t, ht, hprogress⟩ := atRecord_refresh_progress hturn hsTurn (by rwa [takeTurn_params]) trb
    exact ⟨t, ht, progress_of_takeTurn hprogress⟩

/-! ### Walks -/

/-- A chained record gathered: one record and one slot more, and a new walk from the next slot. -/
theorem gather_ok_chained {c : ConsumerRing} {start : Nat} {g : Gather} {trb : Trb} (hg : g.ok c start)
    (hstart : start < c.shadow.length) (hlink : trb.isLink = false) (hchain : chainOf trb = true)
    (hmore : g.passed + 1 < c.shadow.length) :
    Gather.ok { g with item := g.item ++ [trb], passed := g.passed + 1 } (advanceIndex c)
      (advanceIndex c).dequeueIndex := by
  obtain ⟨hsaved, hitems, hfits, hcount⟩ := hg
  have hle := slotsLeft_le (index := c.dequeueIndex) hstart
  refine ⟨hsaved, fun x hx => ?_, ?_, ?_⟩
  · obtain hx | hx := List.mem_append.1 hx
    · exact hitems x hx
    · rw [List.mem_singleton.1 hx]
      exact ⟨hlink, hchain⟩
  · rw [slotsLeft_self, advanceIndex_shadow, List.length_append, List.length_singleton]
    show g.item.length + 1 + _ ≤ g.passed + 1 + _
    omega
  · rw [slotsLeft_self, advanceIndex_shadow]
    show g.passed + 1 + _ < _
    omega

/-- A Link passed: one slot more, and one slot fewer to come. -/
theorem gather_ok_passed {c : ConsumerRing} {start : Nat} {g : Gather} (toggle : Bool) (hg : g.ok c start)
    (hstart : start < c.shadow.length) (hindex : c.dequeueIndex < c.shadow.length)
    (hround : (c.dequeueIndex + 1) % c.shadow.length ≠ start) :
    Gather.ok { g with passed := g.passed + 1 } (passLink c toggle) start := by
  obtain ⟨hsaved, hitems, hfits, hcount⟩ := hg
  have hnext := slotsLeft_next hstart hindex hround
  refine ⟨hsaved, hitems, ?_, ?_⟩
  · show g.item.length + _ ≤ g.passed + 1 + _
    rw [passLink_shadow, passLink_index]
    omega
  · show g.passed + 1 + _ < _
    rw [passLink_shadow, passLink_index]
    omega

theorem walkEffect_progress {s t : State} {id : InstId} {start : Nat} {gather : Option Gather} {c : ConsumerRing}
    {trb : Trb} (h : Inv s) (hs : s.activity = .dequeue id start gather)
    (hring : findInst s.instances id = some (.consumer c)) (heffect : WalkEffect s id start c trb gather t) :
    Progress s t := by
  have hbusy : s.activity ≠ .idle := by simp [hs]
  have hact := h.activity
  rw [hs] at hact
  obtain ⟨c₀, hc₀, hindex, hstart, hgather⟩ := hact
  cases hring.symm.trans hc₀
  have hok := consumer_ok h hring
  have hnext : (c.dequeueIndex + 1) % c.shadow.length < c.shadow.length := Nat.mod_lt _ (by omega)
  have advanced : (advanceIndex c).ok s.params := consumer_ok_of_slot h.bound hok rfl rfl hnext
  have passed (toggle : Bool) : (passLink c toggle).ok s.params := consumer_ok_of_slot h.bound hok rfl rfl hnext
  have rolledBack (g : Gather) (hg : gather = some g) : (rollback c g).ok s.params :=
    consumer_ok_of_slot h.bound hok rfl rfl (hgather g hg).1
  cases heffect with
  | noEntry | noWork => exact progress_answer h hbusy _
  | incomplete g | cyclic g => exact progress_store h hbusy id (q := .consumer (rollback c g)) (rolledBack g rfl) _
  | circuit | circuitNoWork =>
    exact progress_store h hbusy id (q := .consumer (passLink c (toggleOf trb))) (passed _) _
  | returned | complete => exact progress_store h hbusy id (q := .consumer (advanceIndex c)) advanced _
  | chained g hlink hchain hmore =>
    refine ⟨inv_with3_putInst h (q := .consumer (advanceIndex c)) advanced
      ⟨_, findInst_putInst_self .., hnext, hnext, ?_⟩,
      ?_, fun hidle => by cases hidle⟩
    · rintro g' hg'
      cases hg'
      exact gather_ok_chained (hgather g rfl) hstart hlink hchain hmore
    · rw [workLeft_item hs hring, workLeft_item rfl (findInst_putInst_self ..), advanceIndex_shadow]
      show 2 * c.shadow.length - (g.passed + 1) < 2 * c.shadow.length - g.passed
      omega
  | passes _ hround =>
    refine ⟨inv_with3_putInst h (q := .consumer (passLink c (toggleOf trb))) (passed _)
      ⟨_, findInst_putInst_self .., hnext, hstart, ?_⟩, ?_, fun hidle => by cases hidle⟩
    · rintro g' hg'
      cases gather with
      | none => cases hg'
      | some g =>
        cases hg'
        exact gather_ok_passed _ (hgather g rfl) hstart hindex hround
    · cases gather with
      | none =>
        rw [workLeft_walk hs hring, workLeft_walk rfl (findInst_putInst_self ..), passLink_shadow, passLink_index,
          ← slotsLeft_next hstart hindex hround]
        omega
      | some g =>
        obtain ⟨-, -, -, hcount⟩ := hgather g rfl
        rw [workLeft_item hs hring, workLeft_item rfl (findInst_putInst_self ..), passLink_shadow]
        show 2 * c.shadow.length - (g.passed + 1) < 2 * c.shadow.length - g.passed
        omega

/-- From a state that meets the invariant a step of a walk is at a record, and has one of the effects of `WalkEffect`. -/
theorem step_walk_effect {s : State} {id : InstId} {start : Nat} {gather : Option Gather} {c : ConsumerRing}
    (h : Inv s)
    (hs : s.activity = .dequeue id start gather) (hring : findInst s.instances id = some (.consumer c)) :
    ∃ trb t, step s = .next t ∧ WalkEffect (takeTurn s) id start c trb gather t := by
  have hact := h.activity
  rw [hs] at hact
  obtain ⟨c₀, hc₀, hindex, -, -⟩ := hact
  cases hring.symm.trans hc₀
  obtain ⟨t, ht, heffect⟩ := atRecord_walk (s := takeTurn s) c.shadow[c.dequeueIndex] (by rwa [takeTurn_activity])
    (by rwa [takeTurn_instances])
  exact ⟨_, t, (step_walk hs hring (List.getElem?_eq_getElem hindex)).trans ht, heffect⟩

/-- From a state that meets the invariant, a step of an operation in progress answers a next state and makes progress. -/
theorem step_progress {s : State} (h : Inv s) (hbusy : s.activity ≠ .idle) : ∃ t, step s = .next t ∧ Progress s t := by
  have hturn := inv_takeTurn h
  have hact := h.activity
  cases hs : s.activity with
  | idle => exact absurd hs hbusy
  | refresh id gathered addr => exact step_refresh_progress h hs
  | dequeue id start gather =>
    rw [hs] at hact
    obtain ⟨c, hring, -⟩ := hact
    obtain ⟨trb, t, ht, heffect⟩ := step_walk_effect h hs hring
    exact ⟨t, ht, progress_of_takeTurn
      (walkEffect_progress hturn (by rwa [takeTurn_activity]) (by rwa [takeTurn_instances]) heffect)⟩
  | readTable id purpose erstba erstsz raw =>
    rw [hs] at hact
    obtain ⟨hraw, hring⟩ := hact
    obtain ⟨t, ht⟩ := tableStep_isNext (s := takeTurn s) (erstba := erstba) hraw (by rwa [takeTurn_instances])
    exact ⟨t, (step_readTable hs).trans ht, progress_of_takeTurn
      (tableEffect_progress hturn (by rwa [takeTurn_activity]) (tableStep_next ht))⟩

/-! ## An idle engine -/

theorem atRecord_idle {s : State} (trb : Trb) (hidle : s.activity = .idle) :
    atRecord trb s = .refused .noRecordAtHand := by
  unfold atRecord
  split
  · rw [atLink, hidle]
  · rw [atData, hidle]

/-- From an idle engine the next state of an instruction is the effect of a request. -/
theorem exec_idle_next {i : Instr} {s t : State} (hidle : s.activity = .idle) (h : exec i s = .next t) :
    OperationEffect s i t := by
  obtain ⟨trb, -, hrec⟩ | ⟨-, heffect⟩ := exec_next h
  · rw [atRecord_idle trb hidle] at hrec
    cases hrec
  · exact heffect

theorem onConsumer_ne_fault {s : State} {id : InstId} {k : ConsumerRing → Result} {f : Fault}
    (h : ∀ c, k c ≠ .fault f) :
    onConsumer s id k ≠ .fault f := by
  unfold onConsumer
  split
  · exact h _
  · simp
  · simp

theorem onEvent_ne_fault {s : State} {id : InstId} {k : EventRing → Result} {f : Fault}
    (h : ∀ r, findInst s.instances id = some (.event r) → k r ≠ .fault f) : onEvent s id k ≠ .fault f := by
  unfold onEvent
  split
  · exact h _ ‹_›
  · simp
  · simp

theorem walkEmpty_ne_fault (s : State) (id : InstId) (c : ConsumerRing) (gather : Option Gather) (f : Fault) :
    walkEmpty s id c gather ≠ .fault f := by
  unfold walkEmpty
  split
  · simp [finish, deliver]
  · split <;> simp [finish, raise, deliver]

theorem startTable_ne_fault (s : State) (id : InstId) (purpose : TablePurpose) (erstba : Addr) (erstsz : Nat)
    (f : Fault) :
    startTable s id purpose erstba erstsz ≠ .fault f := by
  unfold startTable
  split
  · simp [raise, deliver]
  · split
    · simp [continueWith]
    · split <;> simp [raise, deliver, continueWith]

theorem writeAdvance_ne_fault (s : State) {r : EventRing} (hsegs : r.segs ≠ []) (t : Trb)
    {done : State → EventRing → Result} {f : Fault} (h : ∀ s' r', done s' r' ≠ .fault f) :
    writeAdvance s r t done ≠ .fault f := by
  obtain ⟨r', hadvance⟩ := advance_isSome hsegs
  rw [writeAdvance, hadvance]
  split
  · exact h _ _
  · simp [raise, deliver]

theorem execErEnqueue_ne_fault {s : State} {id : InstId} {event : Trb} {f : Fault} (hidle : s.activity = .idle)
    (hsegs : ∀ id r, findInst s.instances id = some (.event r) → r.segs ≠ []) :
    execErEnqueue id event s ≠ .fault f := by
  rw [execErEnqueue, whenIdle_of_idle hidle]
  refine onEvent_ne_fault fun r hr => ?_
  obtain ⟨a, ha⟩ := nextSlot_isSome (hsegs id r hr)
  rw [ha]
  split
  · simp [raise, deliver]
  · dsimp only
    split
    · exact writeAdvance_ne_fault s (hsegs id r hr) _ (by simp [raise, deliver])
    · exact writeAdvance_ne_fault s (hsegs id r hr) _ (by simp [finish, deliver])

theorem execErIsFull_ne_fault {s : State} {id : InstId} {f : Fault} (hidle : s.activity = .idle)
    (hsegs : ∀ id r, findInst s.instances id = some (.event r) → r.segs ≠ []) : execErIsFull id s ≠ .fault f := by
  rw [execErIsFull, whenIdle_of_idle hidle]
  refine onEvent_ne_fault fun r hr => ?_
  obtain ⟨a, ha⟩ := nextSlot_isSome (hsegs id r hr)
  rw [ha]
  split <;> simp [finish, deliver]

/-- Where every Event Ring has a segment (R28), an idle engine faults at no instruction. -/
theorem exec_idle_ne_fault {i : Instr} {s : State} {f : Fault} (hidle : s.activity = .idle)
    (hsegs : ∀ id r, findInst s.instances id = some (.event r) → r.segs ≠ []) : exec i s ≠ .fault f := by
  cases htrb : i.trb? with
  | some trb =>
    rw [exec_of_trb? htrb, atRecord_idle trb hidle]
    simp
  | none =>
  cases i with
  | erEnqueue => exact execErEnqueue_ne_fault hidle hsegs
  | erIsFull => exact execErIsFull_ne_fault hidle hsegs
  | crCreate =>
    rw [exec, execCrCreate, whenIdle_of_idle hidle]
    split <;> simp [finish, deliver]
  | crUpdateFromGuest =>
    rw [exec, execCrUpdateFromGuest, whenIdle_of_idle hidle]
    exact onConsumer_ne_fault (by simp [continueWith])
  | crReset =>
    rw [exec, execCrReset, whenIdle_of_idle hidle]
    exact onConsumer_ne_fault (by simp [finish, deliver])
  | crDequeueTrb =>
    rw [exec, execCrDequeueTrb, whenIdle_of_idle hidle]
    refine onConsumer_ne_fault fun c => ?_
    split
    · simp [continueWith]
    · exact walkEmpty_ne_fault _ _ _ _ _
  | crDequeueWorkItem =>
    rw [exec, execCrDequeueWorkItem, whenIdle_of_idle hidle]
    refine onConsumer_ne_fault fun c => ?_
    split
    · simp [continueWith]
    · exact walkEmpty_ne_fault _ _ _ _ _
  | erCreate =>
    rw [exec, execErCreate, whenIdle_of_idle hidle]
    split
    · exact startTable_ne_fault _ _ _ _ _ _
    · simp
  | erUpdateDequeuePointer =>
    rw [exec, execErUpdateDequeuePointer, whenIdle_of_idle hidle]
    exact onEvent_ne_fault (by simp [finish, deliver])
  | erUpdateSegmentTable =>
    rw [exec, execErUpdateSegmentTable, whenIdle_of_idle hidle]
    exact onEvent_ne_fault fun r hr => startTable_ne_fault _ _ _ _ _ _
  | cdFromTrbs trbs => simp [exec_cdFromTrbs trbs hidle]
  | tdFromTrbs trbs => simp [exec_tdFromTrbs trbs hidle]
  | tdTransferSize trbs => simp [exec_tdTransferSize trbs hidle]
  | evTransfer | evCommandCompletion | evPortStatusChange | evHostController | evDeviceNotification | evMfindexWrap =>
    exact fun h => by cases (build_of_idle _ hidle).symm.trans h
  | _ => cases htrb

theorem step_idle_ne_fault {s : State} {f : Fault} (h : Inv s) (hidle : s.activity = .idle) : step s ≠ .fault f := by
  cases hreq : s.requests with
  | nil => simp [step, fetch, hidle, fetchRequest, hreq]
  | cons bs rest =>
    cases hdecode : decode .port bs with
    | error e => simp [step, fetch, hidle, fetchRequest, hreq, hdecode]
    | ok i =>
      rw [step_request hidle hreq hdecode]
      refine exec_idle_ne_fault (by simpa using hidle) fun id r hr => ?_
      obtain ⟨hsegs, -⟩ := event_ok h (by simpa using hr)
      exact hsegs

/-! ## The obligations -/

/-- Settles O48: a busy step makes progress, an idle engine rests or executes a request. -/
theorem stepKeepsInvariant : Obligations.StepKeepsInvariant := by
  intro s t h hstep
  by_cases hidle : s.activity = .idle
  case neg =>
    obtain ⟨u, hu, hprogress⟩ := step_progress h hidle
    cases hu.symm.trans hstep
    exact hprogress.inv
  case pos =>
  have hturn := inv_takeTurn h
  rw [← takeTurn_activity] at hidle
  cases step_next hstep with
  | rest => exact hturn
  | request bs rest i t hs hr hd hi hx heffect => exact operationEffect_inv (inv_requests hturn rest) heffect
  | record trb t hat =>
    obtain ⟨id, g, a, hs, -⟩ | ⟨id, start, g, c, hs, -⟩ := hat
    · cases hidle.symm.trans hs
    · cases hidle.symm.trans hs
  | refreshFails id g a e hs => cases hidle.symm.trans hs
  | table id purpose erstba erstsz raw t hs => cases hidle.symm.trans hs
  | lost id start g c t hs => cases hidle.symm.trans hs

/-- Settles O49: a busy step answers a next state, and an idle engine has a segment wherever it looks one up. -/
theorem noStepFaults : Obligations.NoStepFaults := by
  intro s h
  refine ⟨fun f hfault => ?_, fun hbusy => ?_⟩
  · by_cases hidle : s.activity = .idle
    · exact step_idle_ne_fault h hidle hfault
    · obtain ⟨t, ht, -⟩ := step_progress h hidle
      cases ht.symm.trans hfault
  · obtain ⟨t, ht, -⟩ := step_progress h hbusy
    exact ⟨t, ht⟩

/-- Settles O50: part of the progress of a busy step. -/
theorem busyStepDecreasesWork : Obligations.BusyStepDecreasesWork := by
  intro s t h hbusy hstep
  obtain ⟨u, hu, hprogress⟩ := step_progress h hbusy
  cases hu.symm.trans hstep
  exact hprogress.work

/-- An operation in progress is over with one result within the work it has left: each step leaves less of it. -/
theorem busy_ends {s : State} (h : Inv s) (hbusy : s.activity ≠ .idle) :
    ∃ n t r, 1 ≤ n ∧ n ≤ workLeft s ∧ runSteps n s = .next t ∧ delivered t r := by
  induction hw : workLeft s using Nat.strong_induction_on generalizing s with
  | _ w ih =>
    subst hw
    obtain ⟨u, hu, hinv, hwork, hanswered⟩ := step_progress h hbusy
    by_cases hidle : u.activity = .idle
    · obtain ⟨r, hr⟩ := hanswered hidle
      exact ⟨1, u, r, le_refl 1, by omega, runSteps_succ hu, hidle, hr⟩
    · obtain ⟨n, t, r, -, hn, hrun, hdelivered⟩ := ih _ hwork hinv hidle rfl
      exact ⟨n + 1, t, r, by omega, by omega, (runSteps_succ hu).trans hrun, hdelivered⟩

/-- A request that is over at once has its result. -/
theorem operationEffect_answered {s t : State} {i : Instr} (h : OperationEffect s i t) (hidle : t.activity = .idle) :
    ∃ r, t.result = some r := by
  cases h with
  | refresh | walk | workItem | table => cases hidle
  | _ => exact ⟨_, rfl⟩

/-- Settles O51: an instruction is refused for want of a meaning, is over at once, or begins an operation that ends. -/
theorem everyOperationEnds : Obligations.EveryOperationEnds := by
  refine ⟨fun s i h hidle => ?_, fun s h hbusy => busy_ends h hbusy⟩
  cases hexec : exec i s with
  | refused why => exact .inr ⟨why, exec_idle_refused hidle hexec, rfl⟩
  | fault f => exact absurd hexec (exec_idle_ne_fault hidle fun id r hr => (event_ok h hr).1)
  | next s1 =>
    have heffect := exec_idle_next hidle hexec
    by_cases hidle' : s1.activity = .idle
    · obtain ⟨r, hr⟩ := operationEffect_answered heffect hidle'
      exact .inl ⟨s1, 0, s1, r, rfl, Nat.zero_le _, rfl, hidle', hr⟩
    · obtain ⟨n, t, r, -, hn, hrun, hdelivered⟩ := busy_ends (operationEffect_inv h heffect) hidle'
      exact .inl ⟨s1, n, t, r, rfl, hn, hrun, hdelivered⟩

/-- A work item that comes to a Transfer Descriptor comes to that of all its TRBs. -/
theorem itemResult_eq_transfer {kind : RingKind} {item trbs : List Trb}
    (h : itemResult kind item = .ok (.item (.transfer trbs))) : trbs = item := by
  cases kind with
  | transfer => cases h; rfl
  | command =>
    match item with
    | [] => cases h
    | [_] => cases h
    | _ :: _ :: _ => cases h

/-- Settles O28: only the complete item delivers a descriptor, and the invariant says what has been gathered. -/
theorem transferDescriptorShape : Obligations.TransferDescriptorShape := by
  intro s t id start g c trbs h hs hring hstep hdelivered
  have hact := h.activity
  rw [hs] at hact
  obtain ⟨c₀, hc₀, -, -, hgather⟩ := hact
  cases hring.symm.trans hc₀
  obtain ⟨-, hitems, hfits, hcount⟩ := hgather g rfl
  obtain ⟨trb, u, hu, heffect⟩ := step_walk_effect h hs hring
  cases hu.symm.trans hstep
  obtain ⟨-, hresult⟩ := hdelivered
  cases heffect with
  | noWork | incomplete | circuitNoWork | passes | cyclic | chained => cases hresult
  | complete _ hlink hchain =>
    obtain rfl := itemResult_eq_transfer (Option.some.inj hresult)
    refine ⟨by simp, fun x hx => ?_, by simp [hchain], fun x hx => ?_, ?_⟩
    · rw [List.dropLast_concat] at hx
      exact (hitems x hx).2
    · obtain hx | hx := List.mem_append.1 hx
      · exact (hitems x hx).1
      · rwa [List.mem_singleton.1 hx]
    · rw [List.length_append, List.length_singleton]
      omega

end Sys2Proof

/-! # Whole operations over a guest memory nobody writes (spec/41_consumer_ring.md section 2, spec/42_event_ring.md
sections 1, 2, 6): the steps of the machine give the result of the loop the spec writes down -/

namespace Sys2Proof
open Machine

/-! ## A quiet environment -/

/-- `t` has the memory, the parameters and the waiting requests of `s`, and no turn of the environment to come. -/
structure Quiet (s t : State) : Prop where
  mem : t.mem = s.mem
  freeCount : t.freeCount = s.freeCount
  params : t.params = s.params
  requests : t.requests = s.requests
  turns : t.turns = []

theorem quiet_self {s : State} (h : s.turns = []) : Quiet s s := ⟨rfl, rfl, rfl, rfl, h⟩

theorem quiet_with3 {s t : State} (h : Quiet s t) (m : Instances) (a : Activity) (r : Option OpResult) :
    Quiet s (t.with3 m a r) := ⟨h.mem, h.freeCount, h.params, h.requests, h.turns⟩

theorem quiet_takeTurn {s t : State} (h : Quiet s t) : Quiet s (takeTurn t) := by
  rw [takeTurn_nil h.turns]
  exact ⟨h.mem, h.freeCount, h.params, h.requests, h.turns⟩

theorem quiet_memoryKept {s t : State} (h : Quiet s t) : memoryKept s t := memoryKept_of_eq h.mem h.freeCount

/-- A read sees memory and the service's verdict alone. -/
theorem memRead_congr {s t : State} (hmem : t.mem = s.mem) (hfails : t.serviceFails = s.serviceFails) (a : Addr) :
    memRead t a = memRead s a := by rw [memRead, memRead, hmem, hfails]

theorem readTrb_congr {s t : State} (hmem : t.mem = s.mem) (hfails : t.serviceFails = s.serviceFails) (a : Addr) :
    readTrb t a = readTrb s a := by rw [readTrb, readTrb, memRead_congr hmem hfails]

/-- In a quiet environment every read is one of the same memory, with no failing verdict. -/
theorem quiet_memRead {s t : State} (h : Quiet s t) (a : Addr) :
    memRead (takeTurn t) a = memRead { s with serviceFails := false } a := by
  rw [takeTurn_nil h.turns]
  exact memRead_congr (t := { t with serviceFails := false }) (s := { s with serviceFails := false }) h.mem rfl a

theorem quiet_readTrb {s t : State} (h : Quiet s t) (a : Addr) :
    readTrb (takeTurn t) a = readTrb { s with serviceFails := false } a := by
  rw [readTrb, readTrb, quiet_memRead h]

theorem othersKept_of_instances {id : InstId} {s u t : State} (hinst : u.instances = s.instances)
    (h : othersKept id u t) :
    othersKept id s t := fun id' hne => (h id' hne).trans (congrArg (findInst · id') hinst)

/-! ## Runs that stay busy until their end -/

/-- `n` steps from `s` to `t`, with an operation in progress before each of them. -/
def busyRun (n : Nat) (s t : State) : Prop :=
  runSteps n s = .next t ∧ ∀ k < n, ∀ u, runSteps k s = .next u → u.activity ≠ .idle

theorem busyRun_zero (s : State) : busyRun 0 s s := ⟨rfl, fun _ hk => absurd hk (Nat.not_lt_zero _)⟩

theorem busyRun_succ {n : Nat} {s u t : State} (hbusy : s.activity ≠ .idle) (hstep : step s = .next u)
    (h : busyRun n u t) : busyRun (n + 1) s t := by
  obtain ⟨hrun, hbefore⟩ := h
  refine ⟨(runSteps_succ hstep).trans hrun, fun k hk v hv => ?_⟩
  cases k with
  | zero => cases hv; exact hbusy
  | succ k => exact hbefore k (Nat.lt_of_succ_lt_succ hk) v ((runSteps_succ hstep).symm.trans hv)

theorem busyRun_one {s t : State} (hbusy : s.activity ≠ .idle) (hstep : step s = .next t) : busyRun 1 s t :=
  busyRun_succ hbusy hstep (busyRun_zero t)

/-- The state in which a busy run comes to rest is determined: the machine is a function, and the first idle state is
where both runs end. -/
theorem busyRun_unique {m n : Nat} {s t t' : State} (h : busyRun m s t) (h' : busyRun n s t')
    (hidle : t.activity = .idle)
    (hidle' : t'.activity = .idle) : t = t' := by
  obtain ⟨hrun, hbefore⟩ := h
  obtain ⟨hrun', hbefore'⟩ := h'
  obtain hlt | rfl | hgt := Nat.lt_trichotomy m n
  · exact absurd hidle (hbefore' m hlt t hrun)
  · cases hrun.symm.trans hrun'
    rfl
  · exact absurd hidle' (hbefore n hgt t' hrun')

/-! ## `cr_update_from_guest` (R183) -/

/-- How a refresh of the ring `c` under `id` ends in `t`, by the outcome of the loop of R183. -/
def refreshEnds (id : InstId) (c : ConsumerRing) (t : State) : Except OpError (List Trb) → Prop
  | .ok records => delivered t (.ok .nothing) ∧ findInst t.instances id = some (.consumer { c with shadow := records })
  | .error e => delivered t (.error e) ∧ findInst t.instances id = some (.consumer c)

theorem idle_of_refreshEnds {id : InstId} {c : ConsumerRing} {t : State} {r : Except OpError (List Trb)}
    (h : refreshEnds id c t r) : t.activity = .idle := by
  cases r with
  | ok records =>
    obtain ⟨⟨hidle, -⟩, -⟩ := h
    exact hidle
  | error e =>
    obtain ⟨⟨hidle, -⟩, -⟩ := h
    exact hidle

theorem refreshLoop_readFails {s : State} {base addr : Addr} (fuel : Nat) (gathered : List Trb)
    (hread : readTrb s addr = none) : refreshLoop s base (fuel + 1) gathered addr = .error (.eMem addr) := by
  rw [refreshLoop, hread]

theorem refreshLoop_data {s : State} {base addr : Addr} (fuel : Nat) (gathered : List Trb) {t : Trb}
    (hread : readTrb s addr = some t) (hlink : t.isLink = false) :
    refreshLoop s base (fuel + 1) gathered addr = refreshLoop s base fuel (gathered ++ [t]) (nextSlotAddr addr) := by
  simp [refreshLoop, hread, closesRing, hlink]

theorem refreshLoop_link {s : State} {base addr : Addr} (fuel : Nat) (gathered : List Trb) {t : Trb}
    (hread : readTrb s addr = some t) (hlink : t.isLink = true) (htarget : linkTarget t.parameter ≠ base) :
    refreshLoop s base (fuel + 1) gathered addr =
      refreshLoop s base fuel (gathered ++ [t]) (linkTarget t.parameter) := by
  simp [refreshLoop, hread, closesRing, hlink, htarget]

theorem refreshLoop_closed {s : State} {base addr : Addr} (fuel : Nat) (gathered : List Trb) {t : Trb}
    (hread : readTrb s addr = some t) (hlink : t.isLink = true) (htarget : linkTarget t.parameter = base) :
    refreshLoop s base (fuel + 1) gathered addr = .ok (gathered ++ [t]) := by
  simp [refreshLoop, hread, closesRing, hlink, htarget]

/-- The loop sees memory and the service's verdict alone. -/
theorem refreshLoop_congr {s t : State} (hmem : t.mem = s.mem) (hfails : t.serviceFails = s.serviceFails) (base : Addr)
    (fuel : Nat) (gathered : List Trb) (addr : Addr) :
    refreshLoop t base fuel gathered addr = refreshLoop s base fuel gathered addr := by
  induction fuel generalizing gathered addr with
  | zero => rfl
  | succ fuel ih => simp only [refreshLoop, readTrb_congr hmem hfails, ih]

/-- The step that ends a refresh with an error, as a run. -/
theorem refresh_fails {s0 s : State} {id : InstId} {c : ConsumerRing} {e : OpError} (hquiet : Quiet s0 s)
    (hbusy : s.activity ≠ .idle) (hring : findInst s.instances id = some (.consumer c))
    (hstep : step s = .next ((takeTurn s).with3 s.instances .idle (some (.error e)))) :
    ∃ t, busyRun 1 s t ∧ Quiet s0 t ∧ othersKept id s t ∧ refreshEnds id c t (.error e) :=
  ⟨_, busyRun_one hbusy hstep, quiet_with3 (quiet_takeTurn hquiet) .., fun _ _ => rfl, delivered_with3 .., hring⟩

/-- A refresh under way over the quiet memory of `s0` ends as the loop of R183 does from where it stands: one step for
each record the loop reads, and one for the bound. -/
theorem refresh_runs {s0 : State} {id : InstId} {c : ConsumerRing} (fuel : Nat) {s : State} {gathered : List Trb}
    {addr : Addr} (hquiet : Quiet s0 s) (hs : s.activity = .refresh id gathered addr)
    (hring : findInst s.instances id = some (.consumer c))
    (hfuel : gathered.length + fuel = s0.params.maxRingTrbs) :
    ∃ n t, n ≤ fuel + 1 ∧ busyRun n s t ∧ Quiet s0 t ∧ othersKept id s t ∧
      refreshEnds id c t (refreshLoop { s0 with serviceFails := false } c.base fuel gathered addr) := by
  induction fuel generalizing s gathered addr with
  | zero =>
    have hbound : s.params.maxRingTrbs ≤ gathered.length := by rw [hquiet.params]; omega
    obtain ⟨t, hend⟩ := refresh_fails hquiet (by simp [hs]) hring (step_refresh_tooLarge hs hbound)
    exact ⟨1, t, le_refl 1, hend⟩
  | succ fuel ih =>
    have hbusy : s.activity ≠ .idle := by simp [hs]
    have hroom : gathered.length < s.params.maxRingTrbs := by rw [hquiet.params]; omega
    have hturn := quiet_takeTurn hquiet
    have hsTurn : (takeTurn s).activity = .refresh id gathered addr := by rw [takeTurn_activity, hs]
    have hringTurn : findInst (takeTurn s).instances id = some (.consumer c) := by rwa [takeTurn_instances]
    cases hread : readTrb (takeTurn s) addr with
    | none =>
      rw [refreshLoop_readFails fuel gathered ((quiet_readTrb hquiet addr).symm.trans hread)]
      obtain ⟨t, hend⟩ := refresh_fails hquiet hbusy hring (step_refresh_readFails hs hroom hread)
      exact ⟨1, t, by omega, hend⟩
    | some trb =>
      have hread0 := (quiet_readTrb hquiet addr).symm.trans hread
      have hstep := step_refresh hs hroom hread
      have goesOn {addr' : Addr} (hnext : step s
          = .next ((takeTurn s).with3 (takeTurn s).instances (.refresh id (gathered ++ [trb]) addr') none)) :
          ∃ n t, n ≤ fuel + 1 + 1 ∧ busyRun n s t ∧ Quiet s0 t ∧ othersKept id s t ∧ refreshEnds id c t
            (refreshLoop { s0 with serviceFails := false } c.base fuel (gathered ++ [trb]) addr') := by
        obtain ⟨n, t, hn, hrun, hquiet', hothers, hend⟩ := ih (gathered := gathered ++ [trb]) (addr := addr')
          (quiet_with3 hturn ..) rfl hringTurn (by rw [List.length_append, List.length_singleton]; omega)
        exact ⟨n + 1, t, by omega, busyRun_succ hbusy hnext hrun, hquiet',
          othersKept_of_instances (takeTurn_instances s) hothers, hend⟩
      cases hlink : trb.isLink with
      | false =>
        rw [refreshLoop_data fuel gathered hread0 hlink]
        exact goesOn (hstep.trans (atRecord_refresh_data hlink hsTurn))
      | true =>
        rw [atRecord_refresh_link hlink hsTurn hringTurn] at hstep
        by_cases htarget : linkTarget trb.parameter = c.base
        · rw [refreshLoop_closed fuel gathered hread0 hlink htarget]
          rw [if_pos htarget] at hstep
          obtain ⟨hfind, hothers, -, -⟩ :=
            takeTurn_putInst_frame s id (.consumer { c with shadow := gathered ++ [trb] })
            .idle (some (.ok .nothing))
          exact ⟨1, _, by omega, busyRun_one hbusy hstep, quiet_with3 hturn .., hothers, delivered_with3 .., hfind⟩
        · rw [refreshLoop_link fuel gathered hread0 hlink htarget]
          rw [if_neg htarget] at hstep
          exact goesOn hstep

theorem exec_crUpdateFromGuest {s : State} {id : InstId} {c : ConsumerRing} (hidle : s.activity = .idle)
    (hring : findInst s.instances id = some (.consumer c)) :
    exec (.crUpdateFromGuest id) s = .next (s.with3 s.instances (.refresh id [] c.base) none) := by
  simp only [exec, execCrUpdateFromGuest, whenIdle_of_idle hidle, onConsumer_of_find hring]
  rfl

/-- A refresh of an idle engine in a quiet environment, from the request to its end. -/
theorem refresh_from_idle {s : State} {id : InstId} {c : ConsumerRing} (hidle : s.activity = .idle)
    (hturns : s.turns = [])
    (hring : findInst s.instances id = some (.consumer c)) :
    ∃ s1 n t, exec (.crUpdateFromGuest id) s = .next s1 ∧ underway s1 (.refresh id [] c.base) ∧
      s1.instances = s.instances ∧ n ≤ s.params.maxRingTrbs + 1 ∧ busyRun n s1 t ∧ Quiet s t ∧ othersKept id s t ∧
      refreshEnds id c t
        (refreshLoop { s with serviceFails := false } c.base s.params.maxRingTrbs [] c.base) := by
  obtain ⟨n, t, hn, hrun, hquiet, hothers, hend⟩ := refresh_runs (id := id) (c := c) s.params.maxRingTrbs
    (quiet_with3 (quiet_self hturns) s.instances (.refresh id [] c.base) none) rfl hring (Nat.zero_add _)
  exact ⟨_, n, t, exec_crUpdateFromGuest hidle hring, underway_with3 .., rfl, hn, hrun, hquiet, hothers, hend⟩

/-- Settles O11: the run of the refresh, whose end is that of the loop. -/
theorem refreshRunsToItsResult : Obligations.RefreshRunsToItsResult := by
  intro s id c hidle hturns hring
  obtain ⟨s1, n, t, hexec, hunderway, hinst, hn, ⟨hrun, -⟩, hquiet, hothers, hend⟩ :=
    refresh_from_idle hidle hturns hring
  refine ⟨s1, n, t, hexec, hunderway, hinst, hn, hrun, hothers, quiet_memoryKept hquiet, hquiet.params,
    hquiet.requests, ?_⟩
  split
  case h_1 records hloop => rwa [hloop] at hend
  case h_2 e hloop => rwa [hloop] at hend

/-- Settles O12: the second refresh runs the loop over the same memory, so it stores the shadow copy that is there. -/
theorem refreshTwiceSameShadow : Obligations.RefreshTwiceSameShadow := by
  intro s s1 s2 t1 t2 id m n hidle hturns hexec1 hrun1 hdelivered1 hexec2 hrun2 hidle2 hbefore1 hbefore2
  obtain ⟨c, hring, -⟩ := onConsumer_eq_next.1 (whenIdle_eq_next.1 hexec1).2
  obtain ⟨u1, k, v1, hexec1', -, -, -, hbusy1, hquiet1, -, hend1⟩ := refresh_from_idle hidle hturns hring
  cases hexec1.symm.trans hexec1'
  cases busyRun_unique ⟨hrun1, hbefore1⟩ hbusy1 hdelivered1.1 (idle_of_refreshEnds hend1)
  cases hloop : refreshLoop { s with serviceFails := false } c.base s.params.maxRingTrbs [] c.base with
  | error e =>
    rw [hloop] at hend1
    cases hdelivered1.2.symm.trans hend1.1.2
  | ok records =>
    rw [hloop] at hend1
    obtain ⟨-, hring1⟩ := hend1
    obtain ⟨u2, l, v2, hexec2', -, -, -, hbusy2, -, -, hend2⟩ := refresh_from_idle hdelivered1.1 hquiet1.turns hring1
    cases hexec2.symm.trans hexec2'
    cases busyRun_unique ⟨hrun2, hbefore2⟩ hbusy2 hidle2 (idle_of_refreshEnds hend2)
    rw [refreshLoop_congr (s := { s with serviceFails := false })
      (t := { t1 with serviceFails := false }) hquiet1.mem rfl,
      hquiet1.params, hloop] at hend2
    obtain ⟨hdelivered2, hring2⟩ := hend2
    exact ⟨hdelivered2, hring2.trans hring1.symm⟩

/-! ## `er_create` and `er_update_segment_table` (R231, R232, R244) -/

/-- The end of `read_table` with `raw` read before, by the outcome of the reads that were still to come. -/
def tableEnd (s : State) (id : InstId) (purpose : TablePurpose) (raw : List Segment) :
    Except OpError (List Segment) → Result
  | .ok rest => finishTable s id purpose (raw ++ rest)
  | .error e => raise s e

theorem tableLoop_readFails {s : State} {erstba : Addr} {i : Nat} (k : Nat)
    (hread : memRead s (descriptorAddr erstba i) = none) :
    tableLoop s erstba (k + 1) i = .error (.eMem (descriptorAddr erstba i)) := by
  rw [tableLoop, hread]

/-- A descriptor read now is the first of those still to come. -/
theorem tableEnd_tableLoop_succ {s : State} {erstba : Addr} {i : Nat} {bytes : List Byte} (k : Nat)
    (hread : memRead s (descriptorAddr erstba i) = some bytes) (u : State) (id : InstId) (purpose : TablePurpose)
    (raw : List Segment) :
    tableEnd u id purpose raw (tableLoop s erstba (k + 1) i)
      = tableEnd u id purpose (raw ++ [decodeDescriptor bytes]) (tableLoop s erstba k (i + 1)) := by
  rw [tableLoop, hread]
  cases tableLoop s erstba k (i + 1) with
  | ok rest => simp [tableEnd]
  | error e => rfl

/-- `read_table` under way over the quiet memory of `s0`: after at most `k` steps it is at the step that ends it, as the
reads still to come say. -/
theorem table_runs {s0 : State} {id : InstId} {purpose : TablePurpose} {erstba : Addr} {erstsz : Nat} (k : Nat)
    {s : State}
    {raw : List Segment} (hquiet : Quiet s0 s) (hs : s.activity = .readTable id purpose erstba erstsz raw)
    (hcount : raw.length + (k + 1) = erstsz) :
    ∃ n u, n ≤ k ∧ runSteps n s = .next u ∧ Quiet s0 u ∧ u.instances = s.instances ∧
      step u = tableEnd (takeTurn u) id purpose raw
        (tableLoop { s0 with serviceFails := false } erstba (k + 1) raw.length) := by
  induction k generalizing s raw with
  | zero =>
    refine ⟨0, s, le_refl 0, rfl, hquiet, rfl, ?_⟩
    rw [step_readTable hs]
    cases hread : memRead (takeTurn s) (descriptorAddr erstba raw.length) with
    | none =>
      rw [tableLoop_readFails 0 ((quiet_memRead hquiet _).symm.trans hread)]
      exact tableStep_readFails id purpose erstsz hread
    | some bytes =>
      rw [tableEnd_tableLoop_succ 0 ((quiet_memRead hquiet _).symm.trans hread),
        tableStep_last id purpose hread hcount,
        tableLoop, tableEnd, List.append_nil]
  | succ k ih =>
    cases hread : memRead (takeTurn s) (descriptorAddr erstba raw.length) with
    | none =>
      rw [tableLoop_readFails (k + 1) ((quiet_memRead hquiet _).symm.trans hread)]
      exact ⟨0, s, Nat.zero_le _, rfl, hquiet, rfl,
        (step_readTable hs).trans (tableStep_readFails id purpose erstsz hread)⟩
    | some bytes =>
      have hnext :=
        (step_readTable hs).trans (tableStep_goesOn id purpose hread (show raw.length + 1 < erstsz by omega))
      obtain ⟨n, u, hn, hrun, hquiet', hinst, hend⟩ := ih (raw := raw ++ [decodeDescriptor bytes])
        (quiet_with3 (quiet_takeTurn hquiet) ..) rfl (by rw [List.length_append, List.length_singleton]; omega)
      refine ⟨n + 1, u, by omega, (runSteps_succ hnext).trans hrun, hquiet', hinst.trans (takeTurn_instances s), ?_⟩
      rw [tableEnd_tableLoop_succ (k + 1) ((quiet_memRead hquiet _).symm.trans hread), hend, List.length_append,
        List.length_singleton]

theorem length_of_tableLoop {s : State} {erstba : Addr} {n i : Nat} {table : List Segment}
    (h : tableLoop s erstba n i = .ok table) : table.length = n := by
  induction n generalizing i table with
  | zero => cases h; rfl
  | succ n ih =>
    rw [tableLoop] at h
    split at h
    case h_1 => cases h
    case h_2 =>
      split at h <;> cases h
      rw [List.length_cons, ih ‹_›]

/-- A table that is read and valid goes to its installation. -/
theorem tableEnd_of_ok {q : State} {erstba : Addr} {erstsz : Nat} {table : List Segment}
    (h : readTable q erstba erstsz = .ok table) (s : State) (id : InstId) (purpose : TablePurpose) :
    tableEnd s id purpose [] (tableLoop q erstba erstsz 0) = finishTable s id purpose table ∧
      firstBadFrom 0 table = none ∧ table.length = erstsz := by
  unfold readTable at h
  split at h
  case h_1 => cases h
  case h_2 t hloop =>
    split at h <;> cases h
    rw [hloop]
    exact ⟨rfl, ‹_›, length_of_tableLoop hloop⟩

/-- A failed read or an invalid capacity ends `read_table` with that error, and no ring is written. -/
theorem tableEnd_of_error {q : State} {erstba : Addr} {erstsz : Nat} {e : OpError}
    (h : readTable q erstba erstsz = .error e) (s : State) (id : InstId) (purpose : TablePurpose) :
    tableEnd s id purpose [] (tableLoop q erstba erstsz 0)
      = .next (s.with3 s.instances .idle (some (.error e))) := by
  unfold readTable at h
  split at h
  case h_1 e' hloop =>
    cases h
    rw [hloop]
    exact raise_with3 ..
  case h_2 t hloop =>
    split at h <;> cases h
    rw [hloop]
    exact finishTable_invalid id purpose ‹_›

/-- `read_table` of an engine in a quiet environment, from its beginning: within `erstsz` steps it takes the step that
ends it, which is that of the error, or the installation of the valid table that was read. -/
theorem table_from_start {s : State} (hturns : s.turns = []) (id : InstId) (purpose : TablePurpose) (erstba : Addr)
    {erstsz : Nat} (hpos : 0 < erstsz) :
    ∃ n u, n + 1 ≤ erstsz ∧ runSteps n (s.with3 s.instances (.readTable id purpose erstba erstsz []) none) = .next u ∧
      Quiet s (takeTurn u) ∧ (takeTurn u).instances = s.instances ∧
      step u = tableEnd (takeTurn u) id purpose [] (tableLoop { s with serviceFails := false } erstba erstsz 0) := by
  obtain ⟨k, rfl⟩ : ∃ k, erstsz = k + 1 := ⟨erstsz - 1, by omega⟩
  obtain ⟨n, u, hn, hrun, hquiet, hinst, hend⟩ :=
    table_runs (id := id) (purpose := purpose) (erstba := erstba) (raw := []) k
    (quiet_with3 (quiet_self hturns) ..) rfl (Nat.zero_add _)
  exact ⟨n, u, by omega, hrun, quiet_takeTurn hquiet, (takeTurn_instances u).trans hinst, hend⟩

/-- Settles O31: the run of `read_table`, and the new ring of a table of at least one segment. -/
theorem erCreateRunsToItsResult : Obligations.ErCreateRunsToItsResult := by
  intro s id erstba erdp erstsz hidle hturns hroom hpos hmax
  have hexec :=
    (exec_erCreate erstba erstsz erdp hidle hroom).trans (startTable_begins id (.create erdp) erstba hpos hmax)
  obtain ⟨n, u, hn, hrun, hquiet, hinst, hend⟩ := table_from_start hturns id (.create erdp) erstba hpos
  have finishes {t : State} (hstep : step u = .next t) :
      runSteps (n + 1) (s.with3 s.instances (.readTable id (.create erdp) erstba erstsz []) none) = .next t :=
    runSteps_snoc hrun hstep
  cases htable : readTable { s with serviceFails := false } erstba erstsz with
  | error e =>
    have hstep := hend.trans (tableEnd_of_error htable _ id _)
    exact ⟨_, n + 1, _, hexec, underway_with3 .., rfl, hn, finishes hstep,
      fun id' _ => congrArg (findInst · id') hinst,
      quiet_memoryKept (quiet_with3 hquiet ..), hquiet.requests, delivered_with3 .., hinst⟩
  | ok table =>
    obtain ⟨hfinish, hvalid, hlength⟩ := tableEnd_of_ok htable (takeTurn u) id (.create erdp)
    obtain ⟨first, hfirst⟩ : ∃ first, table[0]? = some first := ⟨_, List.getElem?_eq_getElem (hlength ▸ hpos)⟩
    have hstep := hend.trans (hfinish.trans (finishTable_create id erdp hvalid hfirst))
    exact ⟨_, n + 1, _, hexec, underway_with3 .., rfl, hn, finishes hstep,
      othersKept_of_instances hinst (othersKept_with3_putInst _ _ _ _ _), quiet_memoryKept (quiet_with3 hquiet ..),
      hquiet.requests, delivered_with3 .., first, hfirst, findInst_putInst_self ..⟩

/-- Settles O32: the run of `read_table`, and the ring with the table in place of its own. -/
theorem updateSegmentTableRunsToItsResult : Obligations.UpdateSegmentTableRunsToItsResult := by
  intro s id erstba erstsz r hidle hturns hring hpos hmax
  have hexec :=
    (exec_erUpdateSegmentTable erstba erstsz hidle hring).trans (startTable_begins id .update erstba hpos hmax)
  obtain ⟨n, u, hn, hrun, hquiet, hinst, hend⟩ := table_from_start hturns id .update erstba hpos
  have finishes {t : State} (hstep : step u = .next t) :
      runSteps (n + 1) (s.with3 s.instances (.readTable id .update erstba erstsz []) none) = .next t :=
    runSteps_snoc hrun hstep
  cases htable : readTable { s with serviceFails := false } erstba erstsz with
  | error e =>
    have hstep := hend.trans (tableEnd_of_error htable _ id _)
    exact ⟨_, n + 1, _, hexec, underway_with3 .., rfl, hn, finishes hstep,
      fun id' _ => congrArg (findInst · id') hinst,
      quiet_memoryKept (quiet_with3 hquiet ..), hquiet.requests, delivered_with3 .., hinst.symm ▸ hring⟩
  | ok table =>
    obtain ⟨hfinish, hvalid, -⟩ := tableEnd_of_ok htable (takeTurn u) id .update
    have hstep := hend.trans (hfinish.trans (finishTable_update hvalid (hinst.symm ▸ hring)))
    exact ⟨_, n + 1, _, hexec, underway_with3 .., rfl, hn, finishes hstep,
      othersKept_of_instances hinst (othersKept_with3_putInst _ _ _ _ _), quiet_memoryKept (quiet_with3 hquiet ..),
      hquiet.requests, delivered_with3 .., findInst_putInst_self ..⟩

end Sys2Proof

/-! # Whole walks (spec/41_consumer_ring.md sections 4, 5): whatever the guest stores meanwhile, the steps of the machine
give the result and the ring of the loops the spec writes down -/

namespace Sys2Proof
open Machine

/-! ## What a walk leaves alone -/

/-- Every ring but `id` and the waiting requests are as before; the guest may have written its memory. -/
def walkKept (id : InstId) (s t : State) : Prop := othersKept id s t ∧ t.requests = s.requests

theorem walkKept_refl (id : InstId) (s : State) : walkKept id s s := ⟨fun _ _ => rfl, rfl⟩

theorem walkKept_trans {id : InstId} {s t u : State} (h : walkKept id s t) (h' : walkKept id t u) : walkKept id s u :=
  ⟨fun id' hne => (h'.1 id' hne).trans (h.1 id' hne), h'.2.trans h.2⟩

theorem walkKept_with3 (id : InstId) (s : State) (a : Activity) (r : Option OpResult) :
    walkKept id s ((takeTurn s).with3 (takeTurn s).instances a r) :=
  ⟨fun id' _ => congrArg (findInst · id') (takeTurn_instances s), takeTurn_requests s⟩

theorem walkKept_with3_putInst (id : InstId) (s : State) (q : RingInstance) (a : Activity) (r : Option OpResult) :
    walkKept id s ((takeTurn s).with3 (putInst (takeTurn s).instances id q) a r) :=
  ⟨othersKept_takeTurn (othersKept_with3_putInst _ _ _ _ _), takeTurn_requests s⟩

/-! ## The Links a walk passes before the slot it comes to rest at (R189, R190) -/

/-- The slot where the loop of R189 comes to rest, with `c` the ring and `trb` the record there and `n` slots passed
before it: the outcome of the loop. -/
inductive LoopStop (start : Nat) (c : ConsumerRing) (trb : Trb) (n : Nat) :
    Option Trb × ConsumerRing × Nat → Prop where
  | unavailable (hcycle : trb.cycle ≠ c.ccs) : LoopStop start c trb n (none, c, n)
  | circuit (hcycle : trb.cycle = c.ccs) (hlink : trb.isLink = true)
      (hround : (c.dequeueIndex + 1) % c.shadow.length = start) :
      LoopStop start c trb n (none, passLink c (toggleOf trb), n + 1)
  | data (hcycle : trb.cycle = c.ccs) (hlink : trb.isLink = false) :
      LoopStop start c trb n (some trb, advanceIndex c, n + 1)

theorem dequeueLoop_passes {start : Nat} {c : ConsumerRing} {trb : Trb} (fuel n : Nat)
    (hslot : c.shadow[c.dequeueIndex]? = some trb) (hcycle : trb.cycle = c.ccs) (hlink : trb.isLink = true)
    (hround : (c.dequeueIndex + 1) % c.shadow.length ≠ start) :
    dequeueLoop start (fuel + 1) c n = dequeueLoop start fuel (passLink c (toggleOf trb)) (n + 1) := by
  simp [dequeueLoop, hslot, hcycle, hlink, hround]

/-- At a slot the loop does not pass, it comes to rest. -/
theorem dequeueLoop_stops {start : Nat} {c : ConsumerRing} {trb : Trb} (fuel n : Nat)
    (hslot : c.shadow[c.dequeueIndex]? = some trb)
    (hstop : trb.cycle = c.ccs → trb.isLink = true → (c.dequeueIndex + 1) % c.shadow.length = start) :
    LoopStop start c trb n (dequeueLoop start (fuel + 1) c n) := by
  simp only [dequeueLoop, hslot]
  by_cases hcycle : trb.cycle = c.ccs
  case neg =>
    rw [if_pos hcycle]
    exact .unavailable hcycle
  case pos =>
  rw [if_neg (not_not.2 hcycle)]
  cases hlink : trb.isLink with
  | false => exact .data hcycle hlink
  | true =>
    have hround : (passLink c (toggleOf trb)).dequeueIndex = start := hstop hcycle hlink
    rw [if_pos rfl, if_pos hround]
    exact .circuit hcycle hlink hround

/-- A work item's count of passed slots after `k` more of them. -/
def passedBy (k : Nat) (gather : Option Gather) : Option Gather :=
  gather.map fun g => { g with passed := g.passed + k }

theorem passedBy_zero (gather : Option Gather) : passedBy 0 gather = gather := by cases gather <;> rfl

theorem passedBy_countPassed (k : Nat) (gather : Option Gather) :
    passedBy k (countPassed gather) = passedBy (k + 1) gather := by
  cases gather with
  | none => rfl
  | some g => simp [passedBy, countPassed, Nat.add_assoc, Nat.add_comm 1 k]

/-- The step of a walk at a Link that it passes. -/
theorem step_passes_link {s : State} {id : InstId} {start : Nat} {gather : Option Gather} {c : ConsumerRing}
    {trb : Trb}
    (hs : s.activity = .dequeue id start gather) (hring : findInst s.instances id = some (.consumer c))
    (hslot : c.shadow[c.dequeueIndex]? = some trb) (hcycle : trb.cycle = c.ccs) (hlink : trb.isLink = true)
    (hround : (c.dequeueIndex + 1) % c.shadow.length ≠ start) :
    ∃ u, step s = .next u ∧ u.activity = .dequeue id start (countPassed gather) ∧
      findInst u.instances id = some (.consumer (passLink c (toggleOf trb))) ∧ walkKept id s u := by
  rw [step_walk hs hring hslot,
    atRecord_walk_link (by rwa [takeTurn_activity]) (by rwa [takeTurn_instances]) hcycle hlink,
    if_neg hround]
  exact ⟨_, rfl, rfl, findInst_putInst_self .., walkKept_with3_putInst ..⟩

/-- A walk passes Links, one a step, to the slot where the loop of R189 comes to rest; of the slots it has left at least
one remains. -/
theorem walk_passes_links (fuel : Nat) {s : State} {id : InstId} {start : Nat} {gather : Option Gather}
    {c : ConsumerRing}
    (n : Nat) (hs : s.activity = .dequeue id start gather) (hring : findInst s.instances id = some (.consumer c))
    (hstart : start < c.shadow.length) (hindex : c.dequeueIndex < c.shadow.length)
    (hfuel : slotsLeft c.shadow.length start c.dequeueIndex ≤ fuel) :
    ∃ k s' c' trb, runSteps k s = .next s' ∧ k < slotsLeft c.shadow.length start c.dequeueIndex ∧
      s'.activity = .dequeue id start (passedBy k gather) ∧ findInst s'.instances id = some (.consumer c') ∧
      c'.shadow[c'.dequeueIndex]? = some trb ∧ c'.shadow = c.shadow ∧ walkKept id s s' ∧
      LoopStop start c' trb (n + k) (dequeueLoop start fuel c n) := by
  have hleft := slotsLeft_pos hstart hindex
  induction fuel generalizing s gather c n with
  | zero => omega
  | succ fuel ih =>
    have hslot : c.shadow[c.dequeueIndex]? = some c.shadow[c.dequeueIndex] := List.getElem?_eq_getElem hindex
    generalize c.shadow[c.dequeueIndex] = trb at hslot
    by_cases hstop : trb.cycle = c.ccs → trb.isLink = true → (c.dequeueIndex + 1) % c.shadow.length = start
    · exact ⟨0, s, c, trb, rfl, hleft, by rw [passedBy_zero, hs], hring, hslot, rfl, walkKept_refl id s,
        dequeueLoop_stops fuel n hslot hstop⟩
    · obtain ⟨hcycle, hlink, hround⟩ : trb.cycle = c.ccs ∧ trb.isLink = true ∧
          (c.dequeueIndex + 1) % c.shadow.length ≠ start := by simpa using hstop
      obtain ⟨u, hstep, hu, hringU, hkeptU⟩ := step_passes_link hs hring hslot hcycle hlink hround
      have hnext := slotsLeft_next hstart hindex hround
      have hindex' : (c.dequeueIndex + 1) % c.shadow.length < c.shadow.length := Nat.mod_lt _ (by omega)
      obtain ⟨k, s', c', trb', hrun, hk, hs', hring', hslot', hshadow, hkept, hend⟩ :=
        ih (n + 1) hu hringU hstart hindex'
          (by rw [passLink_shadow, passLink_index]; omega) (slotsLeft_pos hstart hindex')
      rw [passLink_shadow, passLink_index] at hk
      refine ⟨k + 1, s', c', trb', (runSteps_succ hstep).trans hrun, by omega, ?_, hring', hslot', hshadow,
        walkKept_trans hkeptU hkept, ?_⟩
      · rw [hs', passedBy_countPassed]
      · rw [dequeueLoop_passes fuel n hslot hcycle hlink hround, show n + (k + 1) = n + 1 + k by omega]
        exact hend

theorem dequeueTrb_of_index {c : ConsumerRing} (h : c.dequeueIndex < c.shadow.length) :
    dequeueTrb c = dequeueLoop c.dequeueIndex c.shadow.length c 0 := if_pos h

/-! ## `cr_dequeue_trb` -/

/-- The step of `cr_dequeue_trb` at the slot where the loop comes to rest delivers the loop's result and ring. -/
theorem step_at_loopStop {s : State} {id : InstId} {start n : Nat} {c : ConsumerRing} {trb : Trb}
    {out : Option Trb × ConsumerRing × Nat} (hs : s.activity = .dequeue id start none)
    (hring : findInst s.instances id = some (.consumer c)) (hslot : c.shadow[c.dequeueIndex]? = some trb)
    (hstop : LoopStop start c trb n out) :
    ∃ t, step s = .next t ∧ delivered t (.ok (.trb out.1)) ∧ findInst t.instances id = some (.consumer out.2.1) ∧
      walkKept id s t := by
  have hsTurn : (takeTurn s).activity = .dequeue id start none := by rwa [takeTurn_activity]
  have hringTurn : findInst (takeTurn s).instances id = some (.consumer c) := by rwa [takeTurn_instances]
  rw [step_walk hs hring hslot]
  cases hstop with
  | unavailable hcycle =>
    rw [atRecord_unavailable hsTurn hringTurn hcycle, walkEmpty_none]
    exact ⟨_, rfl, delivered_with3 .., hringTurn, walkKept_with3 ..⟩
  | circuit hcycle hlink hround =>
    rw [atRecord_walk_link hsTurn hringTurn hcycle hlink, if_pos hround, walkEmpty_none]
    exact ⟨_, rfl, delivered_with3 .., findInst_putInst_self .., walkKept_with3_putInst id s (.consumer _) _ _⟩
  | data hcycle hlink =>
    rw [atRecord_walk_data hsTurn hringTurn hcycle hlink, walkReturns_trb]
    exact ⟨_, rfl, delivered_with3 .., findInst_putInst_self .., walkKept_with3_putInst id s (.consumer _) _ _⟩

/-- Settles O19: the walk passes the Links the loop passes, and ends at the slot where the loop comes to rest. -/
theorem dequeueTrbRunsToItsResult : Obligations.DequeueTrbRunsToItsResult := by
  intro s id c hidle hring
  refine ⟨fun hunusable => ?_, fun hindex => ?_⟩
  · exact ⟨_, exec_crDequeueTrb_unusable hidle hring (not_index_lt_of_unusable hunusable), delivered_with3 .., rfl,
      with3_memoryKept ..⟩
  · obtain ⟨k, s', c', trb, hrun, hk, hs', hring', hslot, -, hkept, hstop⟩ := walk_passes_links c.shadow.length
      (s := s.with3 s.instances (.dequeue id c.dequeueIndex none) none) 0 rfl hring hindex hindex
        (slotsLeft_self _ _).le
    obtain ⟨t, hstep, hdelivered, hfind, hkept'⟩ := step_at_loopStop hs' hring' hslot hstop
    obtain ⟨hothers, hrequests⟩ := walkKept_trans hkept hkept'
    rw [slotsLeft_self] at hk
    rw [dequeueTrb_of_index hindex]
    exact ⟨_, k + 1, t, exec_crDequeueTrb_walks hidle hring hindex, underway_with3 .., rfl, hk,
      runSteps_snoc hrun hstep,
      hdelivered, hfind, hothers, hrequests⟩

/-! ## `cr_dequeue_work_item` -/

theorem workItemLoop_noWork {c c' : ConsumerRing} {g : Gather} {n : Nat} (fuel : Nat)
    (hout : dequeueTrb c = (none, c', n))
    (hitem : g.item = []) : workItemLoop (fuel + 1) c g = (.ok .noWork, c') := by
  simp [workItemLoop, hout, hitem]

theorem workItemLoop_incomplete {c c' : ConsumerRing} {g : Gather} {n : Nat} (fuel : Nat)
    (hout : dequeueTrb c = (none, c', n)) (hitem : g.item ≠ []) :
    workItemLoop (fuel + 1) c g = (.error .eIncomplete, rollback c' g) := by
  simp [workItemLoop, hout, hitem]

theorem workItemLoop_cyclic {c c' : ConsumerRing} {g : Gather} {trb : Trb} {n : Nat} (fuel : Nat)
    (hout : dequeueTrb c = (some trb, c', n)) (hchain : chainOf trb = true) (hfull : c'.shadow.length ≤ g.passed + n) :
    workItemLoop (fuel + 1) c g = (.error .eCyclicIncomplete, rollback c' g) := by
  simp [workItemLoop, hout, hchain, hfull]

theorem workItemLoop_chained {c c' : ConsumerRing} {g : Gather} {trb : Trb} {n : Nat} (fuel : Nat)
    (hout : dequeueTrb c = (some trb, c', n)) (hchain : chainOf trb = true)
    (hmore : ¬ c'.shadow.length ≤ g.passed + n) :
    workItemLoop (fuel + 1) c g
      = workItemLoop fuel c' { g with item := g.item ++ [trb], passed := g.passed + n } := by
  simp [workItemLoop, hout, hchain, hmore]

theorem workItemLoop_complete {c c' : ConsumerRing} {g : Gather} {trb : Trb} {n : Nat} (fuel : Nat)
    (hout : dequeueTrb c = (some trb, c', n)) (hchain : chainOf trb = false) :
    workItemLoop (fuel + 1) c g = (itemResult c'.kind (g.item ++ [trb]), c') := by
  simp only [workItemLoop, hout, hchain, itemResult, Bool.false_eq_true, if_false]
  cases c'.kind with
  | transfer => rfl
  | command => cases commandDescriptor (g.item ++ [trb]) <;> rfl

/-- The end of a work-item walk in `t`: the result and the ring of the loop. -/
def itemEnds (id : InstId) (s t : State) (out : OpResult × ConsumerRing) : Prop :=
  delivered t out.1 ∧ findInst t.instances id = some (.consumer out.2) ∧ walkKept id s t

/-- A work item under way in `u` where the loop of R193 stands with the ring `c` and the variables `g`. -/
structure ItemUnderway (id : InstId) (c : ConsumerRing) (g : Gather) (u : State) : Prop where
  activity : u.activity = .dequeue id c.dequeueIndex (some g)
  ring : findInst u.instances id = some (.consumer c)
  index : c.dequeueIndex < c.shadow.length
  passed : g.passed < c.shadow.length

/-- The step of a work item at the slot where the inner loop comes to rest, `k` slots after the loop of R193 stood at
`c₀` and `g`: it ends the work item as that loop does, or goes on where that loop goes on. -/
theorem step_item_at_loopStop {s : State} {id : InstId} {start k : Nat} {c c₀ : ConsumerRing} {trb : Trb} {g : Gather}
    (fuel : Nat) (hs : s.activity = .dequeue id start (some { g with passed := g.passed + k }))
    (hring : findInst s.instances id = some (.consumer c)) (hslot : c.shadow[c.dequeueIndex]? = some trb)
    (hstop : LoopStop start c trb k (dequeueTrb c₀)) :
    (∃ t, step s = .next t ∧ itemEnds id s t (workItemLoop (fuel + 1) c₀ g)) ∨
    ∃ t g', step s = .next t ∧ walkKept id s t ∧ ItemUnderway id (advanceIndex c) g' t ∧
      g'.passed = g.passed + (k + 1) ∧ workItemLoop (fuel + 1) c₀ g = workItemLoop fuel (advanceIndex c) g' := by
  have hsTurn : (takeTurn s).activity = .dequeue id start (some { g with passed := g.passed + k }) := by
    rwa [takeTurn_activity]
  have hringTurn : findInst (takeTurn s).instances id = some (.consumer c) := by rwa [takeTurn_instances]
  rw [step_walk hs hring hslot]
  generalize hout : dequeueTrb c₀ = out at hstop
  cases hstop with
  | unavailable hcycle =>
    left
    rw [atRecord_unavailable hsTurn hringTurn hcycle]
    by_cases hitem : g.item = []
    · rw [walkEmpty_noWork _ id c (g := { g with passed := g.passed + k }) hitem, workItemLoop_noWork fuel hout hitem]
      exact ⟨_, rfl, delivered_with3 .., hringTurn, walkKept_with3 ..⟩
    · rw [walkEmpty_incomplete _ id c (g := { g with passed := g.passed + k }) hitem,
        workItemLoop_incomplete fuel hout hitem]
      exact ⟨_, rfl, delivered_with3 .., findInst_putInst_self .., walkKept_with3_putInst id s (.consumer _) _ _⟩
  | circuit hcycle hlink hround =>
    left
    rw [atRecord_walk_link hsTurn hringTurn hcycle hlink, if_pos hround]
    by_cases hitem : g.item = []
    · rw [walkEmpty_noWork _ id _ (g := { g with passed := g.passed + k }) hitem, workItemLoop_noWork fuel hout hitem]
      exact ⟨_, rfl, delivered_with3 .., findInst_putInst_self .., walkKept_with3_putInst id s (.consumer _) _ _⟩
    · rw [walkEmpty_stored_incomplete _ id _ (g := { g with passed := g.passed + k }) hitem,
        workItemLoop_incomplete fuel hout hitem]
      exact ⟨_, rfl, delivered_with3 .., findInst_putInst_self .., walkKept_with3_putInst id s (.consumer _) _ _⟩
  | data hcycle hlink =>
    cases hchain : chainOf trb with
    | false =>
      left
      rw [atRecord_item_last hsTurn hringTurn hcycle hlink hchain, workItemLoop_complete fuel hout hchain]
      exact ⟨_, rfl, delivered_with3 .., findInst_putInst_self .., walkKept_with3_putInst id s (.consumer _) _ _⟩
    | true =>
      rw [atRecord_item_chained hsTurn hringTurn hcycle hlink hchain]
      by_cases hfull : c.shadow.length ≤ g.passed + k + 1
      · left
        rw [if_pos hfull, workItemLoop_cyclic fuel hout hchain hfull]
        exact ⟨_, rfl, delivered_with3 .., findInst_putInst_self .., walkKept_with3_putInst id s (.consumer _) _ _⟩
      · right
        rw [if_neg hfull, workItemLoop_chained fuel hout hchain hfull]
        refine ⟨_, _, rfl, walkKept_with3_putInst id s (.consumer _) _ _, ⟨rfl, findInst_putInst_self .., ?_, ?_⟩,
          rfl, rfl⟩
        · exact Nat.mod_lt _ (by omega)
        · exact Nat.not_le.1 hfull

/-- A work item under way ends as the loop of R193 does from where it stands. Each inner walk takes a step for each slot
it passes, so the count of passed slots bounds the steps taken, and the last inner walk takes at most one circuit. -/
theorem item_runs (fuel : Nat) {s : State} {id : InstId} {c : ConsumerRing} {g : Gather} (h : ItemUnderway id c g s)
    (hfuel : c.shadow.length + 1 ≤ fuel + g.passed) :
    ∃ n t, n + g.passed ≤ 2 * c.shadow.length ∧ runSteps n s = .next t ∧ itemEnds id s t (workItemLoop fuel c g) := by
  induction fuel generalizing s c g with
  | zero => have := h.passed; omega
  | succ fuel ih =>
    obtain ⟨hs, hring, hindex, hpassed⟩ := h
    obtain ⟨k, s', c', trb, hrun, hk, hs', hring', hslot, hshadow, hkept, hstop⟩ :=
      walk_passes_links c.shadow.length 0 hs hring hindex hindex (slotsLeft_self _ _).le
    rw [slotsLeft_self] at hk
    rw [Nat.zero_add, ← dequeueTrb_of_index hindex] at hstop
    obtain ⟨t, hstep, hdelivered, hfind, hkept'⟩ | ⟨u, g', hstep, hkept', hunderway, hcount, hloop⟩ :=
      step_item_at_loopStop fuel hs' hring' hslot hstop
    · exact ⟨k + 1, t, by omega, runSteps_snoc hrun hstep, hdelivered, hfind, walkKept_trans hkept hkept'⟩
    · obtain ⟨n, t, hn, hrun', hdelivered, hfind, hkept''⟩ :=
        ih hunderway (by rw [advanceIndex_shadow, hshadow]; omega)
      rw [advanceIndex_shadow, hshadow] at hn
      rw [hloop]
      exact ⟨k + 1 + n, t, by omega, (runSteps_add n (runSteps_snoc hrun hstep)).trans hrun', hdelivered, hfind,
        walkKept_trans hkept (walkKept_trans hkept' hkept'')⟩

theorem exec_crDequeueWorkItem_walks {s : State} {id : InstId} {c : ConsumerRing} (hidle : s.activity = .idle)
    (hring : findInst s.instances id = some (.consumer c)) (hindex : c.dequeueIndex < c.shadow.length) :
    exec (.crDequeueWorkItem id) s
      = .next (s.with3 s.instances (.dequeue id c.dequeueIndex (some (startGather c))) none) := by
  simp [exec, execCrDequeueWorkItem, whenIdle_of_idle hidle, onConsumer_of_find hring, hindex, continueWith_with3]

/-- Settles O24: the run of the work item, whose end is that of the loop. -/
theorem workItemRunsToItsResult : Obligations.WorkItemRunsToItsResult := by
  intro s id c hidle hring
  refine ⟨fun hunusable => ?_, fun hindex => ?_⟩
  · exact ⟨_, exec_crDequeueWorkItem_unusable hidle hring (not_index_lt_of_unusable hunusable), delivered_with3 ..,
      rfl,
      with3_memoryKept ..⟩
  · have hunderway : ItemUnderway id c (startGather c)
        (s.with3 s.instances (.dequeue id c.dequeueIndex (some (startGather c))) none) :=
      ⟨rfl, hring, hindex, show 0 < c.shadow.length by omega⟩
    obtain ⟨n, t, hn, hrun, hdelivered, hfind, hothers, hrequests⟩ :=
      item_runs (c.shadow.length + 1) hunderway (le_refl _)
    exact ⟨_, n, t, exec_crDequeueWorkItem_walks hidle hring hindex, underway_with3 .., rfl, hn, hrun, hdelivered,
      hfind,
      hothers, hrequests⟩

end Sys2Proof

/-! # The capacity of an Event Ring (spec/42_event_ring.md R236): `T - 1` events, then the full-notification record -/

namespace Sys2Proof
open Machine

/-! ## The slots of a ring, numbered in ring order -/

theorem length_segmentSlots (g : Segment) : (segmentSlots g).length = g.cap := by simp [segmentSlots]

theorem getElem?_segmentSlots {g : Segment} {k : Nat} (hk : k < g.cap) :
    (segmentSlots g)[k]? = some (g.base + BitVec.ofNat 64 (16 * k)) := by simp [segmentSlots, hk]

/-- The number of the first slot of segment `i`. -/
def segmentStart (segs : List Segment) (i : Nat) : Nat := (ringSlots (segs.take i)).length

theorem ringSlots_append (l l' : List Segment) : ringSlots (l ++ l') = ringSlots l ++ ringSlots l' :=
  List.flatMap_append

/-- Slot `k` of segment `i` in ring order. -/
theorem getElem?_ringSlots {segs : List Segment} {i k : Nat} {g : Segment} (hg : segs[i]? = some g) (hk : k < g.cap) :
    (ringSlots segs)[segmentStart segs i + k]? = some (g.base + BitVec.ofNat 64 (16 * k)) := by
  obtain ⟨hi, rfl⟩ := List.getElem?_eq_some_iff.1 hg
  have hsplit : segs = segs.take i ++ segs[i] :: segs.drop (i + 1) := by simp
  have hslots : ringSlots segs
      = ringSlots (segs.take i) ++ (segmentSlots segs[i] ++ ringSlots (segs.drop (i + 1))) := by
    conv_lhs => rw [hsplit, ringSlots_append]
    rfl
  rw [hslots, segmentStart, List.getElem?_append_right (Nat.le_add_right _ _), Nat.add_sub_cancel_left,
    List.getElem?_append_left (by rwa [length_segmentSlots]), getElem?_segmentSlots hk]

theorem segmentStart_succ {segs : List Segment} {i : Nat} {g : Segment} (hg : segs[i]? = some g) :
    segmentStart segs (i + 1) = segmentStart segs i + g.cap := by
  rw [segmentStart, segmentStart, List.take_add_one, hg, ringSlots_append, List.length_append]
  simp [ringSlots, length_segmentSlots]

theorem segmentStart_of_length_le {segs : List Segment} {i : Nat} (h : segs.length ≤ i) :
    segmentStart segs i = (ringSlots segs).length := by rw [segmentStart, List.take_of_length_le h]

/-! ## The position as the number of a slot (R29 to R31, R235, R237) -/

/-- The position registers describe slot number `p` in ring order. -/
def atSlot (r : EventRing) (p : Nat) : Prop :=
  ∃ g, r.segs[r.segIndex]? = some g ∧ 1 ≤ r.remaining ∧ r.remaining ≤ g.cap ∧
    p + r.remaining = segmentStart r.segs r.segIndex + g.cap ∧
    r.enqueuePointer = g.base + BitVec.ofNat 64 (16 * (g.cap - r.remaining))

theorem atSlot_pointer {r : EventRing} {p : Nat} (h : atSlot r p) :
    (ringSlots r.segs)[p]? = some r.enqueuePointer := by
  obtain ⟨g, hg, hlow, hhigh, hp, hptr⟩ := h
  rw [hptr, ← getElem?_ringSlots hg (show g.cap - r.remaining < g.cap by omega)]
  congr 1
  omega

/-- From slot `p` the next slot is slot `p + 1`, and the advance moves there; from the last slot it is slot 0. -/
theorem atSlot_next {r : EventRing} {p : Nat} (hcaps : ∀ g ∈ r.segs, capValid g = true) (h : atSlot r p) :
    (p + 1 < (ringSlots r.segs).length ∧ nextSlot r = (ringSlots r.segs)[p + 1]? ∧
      ∃ r', advance r = some r' ∧ atSlot r' (p + 1)) ∨
    (p + 1 = (ringSlots r.segs).length ∧ nextSlot r = (ringSlots r.segs)[0]?) := by
  obtain ⟨g, hg, hlow, hhigh, hp, hptr⟩ := h
  have hcap {i : Nat} {g' : Segment} (hg' : r.segs[i]? = some g') : 0 < g'.cap := by
    have := capValid_iff.1 (hcaps g' (List.mem_of_getElem? hg'))
    omega
  by_cases hinside : 2 ≤ r.remaining
  · have hslot := getElem?_ringSlots hg (show g.cap - r.remaining + 1 < g.cap by omega)
    rw [show segmentStart r.segs r.segIndex + (g.cap - r.remaining + 1) = p + 1 by omega, ← slotAddr_succ,
      ← hptr] at hslot
    refine .inl ⟨(List.getElem?_eq_some_iff.1 hslot).1, ?_, _, advance_inside hinside, g, hg, ?_, ?_, ?_, ?_⟩
    · rw [nextSlot_inside (by omega), hslot]
    · show 1 ≤ r.remaining - 1
      omega
    · show r.remaining - 1 ≤ g.cap
      omega
    · show p + 1 + (r.remaining - 1) = segmentStart r.segs r.segIndex + g.cap
      omega
    · show r.enqueuePointer + 16#64 = g.base + BitVec.ofNat 64 (16 * (g.cap - (r.remaining - 1)))
      rw [hptr, slotAddr_succ, show g.cap - (r.remaining - 1) = g.cap - r.remaining + 1 by omega]
  have hlast : r.remaining = 1 := by omega
  have hstart : p + 1 = segmentStart r.segs (r.segIndex + 1) := by rw [segmentStart_succ hg]; omega
  by_cases hnext : r.segIndex + 1 < r.segs.length
  · have hentry : r.segs[r.segIndex + 1]? = some r.segs[r.segIndex + 1] := List.getElem?_eq_getElem hnext
    generalize r.segs[r.segIndex + 1] = g' at hentry
    have hslot := getElem?_ringSlots hentry (hcap hentry)
    rw [Nat.add_zero, ← hstart, Nat.mul_zero, BitVec.add_zero] at hslot
    refine .inl ⟨(List.getElem?_eq_some_iff.1 hslot).1, ?_, _, advance_next hlast.le hnext hentry, g', hentry,
      hcap hentry,
      le_refl _, ?_, by simp⟩
    · rw [nextSlot_last hlast (by rwa [nextIndex_inside hnext]), hslot]
    · show p + 1 + g'.cap = _
      rw [hstart]
  · have hwrap := Nat.not_lt.1 hnext
    have hentry : ∃ g', r.segs[0]? = some g' :=
      ⟨_, List.getElem?_eq_getElem (Nat.lt_of_le_of_lt (Nat.zero_le _) (List.getElem?_eq_some_iff.1 hg).1)⟩
    obtain ⟨g', hentry⟩ := hentry
    have hslot := getElem?_ringSlots hentry (hcap hentry)
    refine .inr ⟨by rw [hstart, segmentStart_of_length_le hwrap], ?_⟩
    rw [nextSlot_last hlast (by rwa [nextIndex_wraps hwrap])]
    simpa [segmentStart, ringSlots] using hslot.symm

/-! ## What the memory service accepts it accepts after a write too -/

theorem byteAt_setByte_isSome {m : Memory} {x : Nat} (a : Nat) (b : Byte) (h : (byteAt m x).isSome = true) :
    (byteAt (setByte m a b) x).isSome = true := by
  by_cases hx : x = a
  · rw [hx, byteAt_setByte_self, Option.isSome_some]
  · rwa [byteAt_setByte_of_ne m b hx]

theorem byteAt_writeBytes_isSome {m : Memory} {x : Nat} (a : Addr) (bs : List Byte) (h : (byteAt m x).isSome = true) :
    (byteAt (writeBytes m a bs) x).isSome = true := by
  induction bs generalizing m a with
  | nil => exact h
  | cons b bs ih => exact ih (a + 1#64) (byteAt_setByte_isSome a.toNat b h)

theorem accepts_succ (m : Memory) (a : Addr) (n : Nat) :
    accepts m a (n + 1) = true ↔ (byteAt m a.toNat).isSome = true ∧ accepts m (a + 1#64) n = true := by
  rw [accepts, accepts, readBytes]
  cases byteAt m a.toNat with
  | none => simp
  | some b => cases readBytes m (a + 1#64) n <;> simp

theorem accepts_writeBytes {m : Memory} {x : Addr} {n : Nat} (a : Addr) (bs : List Byte) (h : accepts m x n = true) :
    accepts (writeBytes m a bs) x n = true := by
  induction n generalizing x with
  | zero => rfl
  | succ n ih =>
    obtain ⟨hbyte, hrest⟩ := (accepts_succ m x n).1 h
    exact (accepts_succ _ x n).2 ⟨byteAt_writeBytes_isSome a bs hbyte, ih hrest⟩

/-! ## One enqueue after another -/

/-- An idle engine whose Event Ring `id` has the table `segs` and the dequeue pointer `d` and stands at slot `p`, all of
its slots accepted by the memory service. -/
structure RingAt (id : InstId) (segs : List Segment) (d : Addr) (p : Nat) (s : State) : Prop where
  idle : s.activity = .idle
  serves : s.serviceFails = false
  slots : ∀ a ∈ ringSlots segs, accepts s.mem a 16 = true
  ring : ∃ r, findInst s.instances id = some (.event r) ∧ r.segs = segs ∧ r.dequeuePointer = some d ∧ atSlot r p

theorem writeOk_of_slot {s : State} {a : Addr} (hserves : s.serviceFails = false)
    (haccepts : accepts s.mem a 16 = true) :
    writeOk s a = true := by simp [writeOk, hserves, haccepts]

theorem segs_ne_nil_of_atSlot {r : EventRing} {p : Nat} (h : atSlot r p) : r.segs ≠ [] := by
  obtain ⟨g, hg, -⟩ := h
  exact List.ne_nil_of_mem (List.mem_of_getElem? hg)

section
variable {id : InstId} {segs : List Segment} {d : Addr} {p : Nat} {s : State}

/-- Before the last slot an event is accepted: the next slot is another than the first. -/
theorem enqueue_accepted (hcaps : ∀ g ∈ segs, capValid g = true) (hnodup : (ringSlots segs).Nodup)
    (hfirst : (ringSlots segs)[0]? = some d) (h : RingAt id segs d p s) (hp : p + 1 < (ringSlots segs).length)
    (event : Trb) :
    ∃ t, execErEnqueue id event s = .next t ∧ delivered t (.ok .accepted) ∧ RingAt id segs d (p + 1) t := by
  obtain ⟨hidle, hserves, hslots, r, hring, rfl, hd, hat⟩ := h
  obtain ⟨-, hnext, r', hadvance, hat'⟩ | ⟨hround, -⟩ := atSlot_next hcaps hat
  case inr => omega
  have hfull : nextSlot r ≠ some d := by
    rw [hnext, ← hfirst]
    intro heq
    have := (List.getElem?_inj hp hnodup).1 heq
    omega
  have hwrite := writeOk_of_slot hserves (hslots _ (List.mem_of_getElem? (atSlot_pointer hat)))
  obtain ⟨hdelivered, -, -, -, hfind, -, -, -, -, hserves'⟩ :=
    afterEnqueue_frame s id r.enqueuePointer (stamp event r.pcs) r' (.ok .accepted)
  obtain ⟨hsegs', hd'⟩ := advance_kept hadvance
  refine ⟨_, exec_erEnqueue_accepted event hidle hring (segs_ne_nil_of_atSlot hat) hd hfull hwrite hadvance,
    hdelivered,
    hdelivered.1, hserves'.trans hserves, fun a ha => ?_, r', hfind, hsegs', hd'.trans hd, hat'⟩
  rw [afterEnqueue, with3_mem, afterWrite_mem]
  exact accepts_writeBytes _ _ (hslots a ha)

/-- At the last slot the event is rejected and the full-notification record written: the next slot is the first. -/
theorem enqueue_full (hcaps : ∀ g ∈ segs, capValid g = true) (hfirst : (ringSlots segs)[0]? = some d)
    (h : RingAt id segs d p s) (hp : p + 1 = (ringSlots segs).length) (event : Trb) :
    ∃ t, execErEnqueue id event s = .next t ∧ delivered t (.error (.eventRingFull event true)) := by
  obtain ⟨hidle, hserves, hslots, r, hring, rfl, hd, hat⟩ := h
  obtain ⟨hmore, -⟩ | ⟨-, hnext⟩ := atSlot_next hcaps hat
  case inl => omega
  have hwrite := writeOk_of_slot hserves (hslots _ (List.mem_of_getElem? (atSlot_pointer hat)))
  obtain ⟨r', hadvance⟩ := advance_isSome (segs_ne_nil_of_atSlot hat)
  exact ⟨_, exec_erEnqueue_full event hidle hring hd (hnext.trans hfirst) hwrite hadvance, (afterEnqueue_frame ..).1⟩

theorem enqueueAll_cons {t : State} {event : Trb} (h : execErEnqueue id event s = .next t) (events : List Trb) :
    enqueueAll id (event :: events) s = enqueueAll id events t := by rw [enqueueAll, h]

theorem enqueueAll_append {t : State} {events : List Trb} (h : enqueueAll id events s = .next t) (more : List Trb) :
    enqueueAll id (events ++ more) s = enqueueAll id more t := by
  induction events generalizing s with
  | nil => cases h; rfl
  | cons event events ih =>
    rw [enqueueAll] at h
    split at h
    case h_1 u hu => rw [List.cons_append, enqueueAll_cons hu, ih h]
    case h_2 => cases h
    case h_3 => cases h

/-- As many enqueues as stop short of the last slot are all accepted, the last of them too. -/
theorem enqueueAll_accepted (hcaps : ∀ g ∈ segs, capValid g = true) (hnodup : (ringSlots segs).Nodup)
    (hfirst : (ringSlots segs)[0]? = some d) (events : List Trb) (h : RingAt id segs d p s)
    (hp : p + events.length < (ringSlots segs).length) :
    ∃ t, enqueueAll id events s = .next t ∧ RingAt id segs d (p + events.length) t ∧
      (events ≠ [] → delivered t (.ok .accepted)) := by
  induction events generalizing p s with
  | nil => exact ⟨s, rfl, h, fun hne => absurd rfl hne⟩
  | cons event events ih =>
    rw [List.length_cons] at hp
    obtain ⟨u, hu, hdelivered, hat⟩ := enqueue_accepted hcaps hnodup hfirst h (by omega) event
    obtain ⟨t, ht, hat', hlast⟩ := ih hat (by omega)
    rw [enqueueAll_cons hu, List.length_cons, Nat.add_comm events.length 1, ← Nat.add_assoc]
    refine ⟨t, ht, hat', fun _ => ?_⟩
    cases events with
    | nil => cases ht; exact hdelivered
    | cons => exact hlast (List.cons_ne_nil _ _)

end

/-- Settles O42: an empty ring stands at slot 0 with its dequeue pointer there; `T - 1` enqueues bring it to the last
slot, where the next slot is the dequeue pointer. -/
theorem capacityIsTotalMinusOne : Obligations.CapacityIsTotalMinusOne := by
  intro s id r first events hidle hserves hring hcaps hnodup haccepts hfirst hsegIndex hremaining hptr hd
  have hcap := capValid_iff.1 (hcaps first (List.mem_of_getElem? hfirst))
  have hslot0 : (ringSlots r.segs)[0]? = some first.base := by
    simpa [segmentStart, ringSlots] using getElem?_ringSlots hfirst (show 0 < first.cap by omega)
  have hat : atSlot r 0 :=
    ⟨first, by rwa [hsegIndex], by omega, hremaining.le, by rw [hremaining, hsegIndex]; rfl,
      by simp [hremaining, hptr]⟩
  have hready : RingAt id r.segs first.base 0 s := ⟨hidle, hserves, haccepts, r, hring, rfl, hd, hat⟩
  refine ⟨fun hpos hlt => ?_, fun last hlast hlength => ?_⟩
  · obtain ⟨t, ht, -, hdelivered⟩ := enqueueAll_accepted hcaps hnodup hslot0 events hready (by omega)
    exact ⟨t, ht, hdelivered (List.length_pos_iff.1 hpos)⟩
  · have hsplit : events = events.dropLast ++ [last] := (List.dropLast_append_getLast? last hlast).symm
    have hinit : events.dropLast.length + 1 = (ringSlots r.segs).length := by
      rw [← hlength, hsplit, List.length_append, List.dropLast_concat]
      rfl
    obtain ⟨u, hu, hatLast, -⟩ := enqueueAll_accepted hcaps hnodup hslot0 events.dropLast hready (by omega)
    obtain ⟨t, ht, hdelivered⟩ := enqueue_full hcaps hslot0 hatLast (by omega) last
    refine ⟨t, ?_, hdelivered⟩
    rw [hsplit, enqueueAll_append hu, enqueueAll_cons ht, enqueueAll]

end Sys2Proof
